-- ==== Sys2Proof/Word.lean ====
section
/-! DEFINITION. The widths of sub002-CORE: one name for each kind of bit vector the spec names (00_scope.md R5). -/

namespace Sys2Proof

/-- A word of the memory M, a digit of a digit vector, a counter, a flag word (R5 WORD_BITS, DIGIT_BITS, CTR_BITS, FLAG_BITS). -/
abbrev Word := BitVec 32

/-- The contents of a general register (R5 XLEN). -/
abbrev Dword := BitVec 64

/-- An instruction word (R5 ILEN, R70). -/
abbrev InstrWord := BitVec 64

/-- A register field: names `x[0]`..`x[15]` by its unsigned value (R77). -/
abbrev Reg := BitVec 4

/-- The `opc` field of an instruction word (R70). -/
abbrev Opc := BitVec 8

/-- An error code (R5 EC_BITS). -/
abbrev Code := BitVec 24

/-- The command counter (R5 CCLEN, R22). -/
abbrev Count := BitVec 32

/-- A resource handle (R25). -/
abbrev Handle := BitVec 32

end Sys2Proof
end

