-- ==== Sys2Proof/Syntax.lean ====
section
/-! DEFINITION. The syntax of sub002-CORE: its types, exposure levels and error-code operands (30_encoding.md R74 to
R76), and `Instr`, one constructor for each row of spec/opcode_table.json. -/

namespace Sys2Proof

/-- The type of a Format A instruction (R8, R74). -/
inductive Ty where
  | s32 | u32 | s64 | u64
deriving DecidableEq, Repr

/-- An action kind (R25), in the order of its numbers 0..3. -/
inductive Action where
  | terminate | count | setFlag | callback
deriving DecidableEq, Repr

/-- The error-code field `{sel, code}` (R76): `override` is absent for `sel` = 0 and action number `sel` - 1 otherwise. -/
structure Ecf where
  override : Option Action
  code : Code
deriving DecidableEq, Repr

/-- The two checked exposure levels (R75): E carries an error-code field, D uses the register DEC. -/
inductive Checked where
  | explicit (ecf : Ecf)
  | deferred
deriving DecidableEq, Repr

/-- The exposure level `chk` (R75): U, or one of the checked levels. -/
inductive Level where
  | unchecked
  | checked (c : Checked)
deriving DecidableEq, Repr

/-- The 52 forms of R79. -/
inductive Instr where
  /-- PSET (R101: set the current record). -/
  | pset (act : BitVec 4) (ra : Reg)
  /-- PPUSH (R102: save the current record and set a new one). -/
  | ppush (act : BitVec 4) (ra : Reg)
  /-- PPOP (R103: restore the saved record). -/
  | ppop
  /-- SDEC (R104: set the default error code). -/
  | sdec (code : Code)
  /-- REPORT (R105: perform one report). -/
  | report (ecf : Ecf)
  /-- TMSET (R106: set test mode). -/
  | tmset (enabled : Bool)
  /-- TMGET (R107: read test mode). -/
  | tmget (rd : Reg)
  /-- ADD.S32 (R121). -/
  | addS32 (l : Level) (rd ra rb : Reg)
  /-- ADD.U32 (R121). -/
  | addU32 (l : Level) (rd ra rb : Reg)
  /-- ADD.S64 (R121). -/
  | addS64 (l : Level) (rd ra rb : Reg)
  /-- ADD.U64 (R121). -/
  | addU64 (l : Level) (rd ra rb : Reg)
  /-- SUB.S32 (R122). -/
  | subS32 (l : Level) (rd ra rb : Reg)
  /-- SUB.U32 (R122). -/
  | subU32 (l : Level) (rd ra rb : Reg)
  /-- SUB.S64 (R122). -/
  | subS64 (l : Level) (rd ra rb : Reg)
  /-- SUB.U64 (R122). -/
  | subU64 (l : Level) (rd ra rb : Reg)
  /-- NEG.S32 (R123). -/
  | negS32 (l : Level) (rd ra : Reg)
  /-- NEG.S64 (R123). -/
  | negS64 (l : Level) (rd ra : Reg)
  /-- SHL.S32 (R141). -/
  | shlS32 (l : Level) (rd ra rb : Reg)
  /-- SHL.U32 (R141). -/
  | shlU32 (l : Level) (rd ra rb : Reg)
  /-- SHL.S64 (R141). -/
  | shlS64 (l : Level) (rd ra rb : Reg)
  /-- SHL.U64 (R141). -/
  | shlU64 (l : Level) (rd ra rb : Reg)
  /-- SHR.S32 (R142). -/
  | shrS32 (rd ra rb : Reg)
  /-- SHR.U32 (R142). -/
  | shrU32 (rd ra rb : Reg)
  /-- SHR.S64 (R142). -/
  | shrS64 (rd ra rb : Reg)
  /-- SHR.U64 (R142). -/
  | shrU64 (rd ra rb : Reg)
  /-- SHRR.S32 (R143). -/
  | shrrS32 (rd ra rb : Reg)
  /-- SHRR.U32 (R143). -/
  | shrrU32 (rd ra rb : Reg)
  /-- SHRR.S64 (R143). -/
  | shrrS64 (rd ra rb : Reg)
  /-- SHRR.U64 (R143). -/
  | shrrU64 (rd ra rb : Reg)
  /-- MULW.S32 (R161). -/
  | mulwS32 (rd ra rb : Reg)
  /-- MULW.U32 (R161). -/
  | mulwU32 (rd ra rb : Reg)
  /-- MS.S32 (R162). -/
  | msS32 (l : Level) (rd ra rb rc : Reg)
  /-- MS.U32 (R162). -/
  | msU32 (l : Level) (rd ra rb rc : Reg)
  /-- MS.S64 (R162). -/
  | msS64 (l : Level) (rd ra rb rc : Reg)
  /-- MS.U64 (R162). -/
  | msU64 (l : Level) (rd ra rb rc : Reg)
  /-- MSR.S32 (R163). -/
  | msrS32 (l : Level) (rd ra rb rc : Reg)
  /-- MSR.U32 (R163). -/
  | msrU32 (l : Level) (rd ra rb rc : Reg)
  /-- MSR.S64 (R163). -/
  | msrS64 (l : Level) (rd ra rb rc : Reg)
  /-- MSR.U64 (R163). -/
  | msrU64 (l : Level) (rd ra rb rc : Reg)
  /-- DIVM.S32 (R181; `re` absent is the assembler's "-" (`wr` = 0)). -/
  | divmS32 (c : Checked) (rd : Reg) (re : Option Reg) (ra rb : Reg)
  /-- DIVM.U32 (R181; `re` absent is the assembler's "-" (`wr` = 0)). -/
  | divmU32 (c : Checked) (rd : Reg) (re : Option Reg) (ra rb : Reg)
  /-- DIVM.S64 (R181; `re` absent is the assembler's "-" (`wr` = 0)). -/
  | divmS64 (c : Checked) (rd : Reg) (re : Option Reg) (ra rb : Reg)
  /-- DIVM.U64 (R181; `re` absent is the assembler's "-" (`wr` = 0)). -/
  | divmU64 (c : Checked) (rd : Reg) (re : Option Reg) (ra rb : Reg)
  /-- DIVR.S32 (R182). -/
  | divrS32 (c : Checked) (rd ra rb : Reg)
  /-- DIVR.U32 (R182). -/
  | divrU32 (c : Checked) (rd ra rb : Reg)
  /-- DIVR.S64 (R182). -/
  | divrS64 (c : Checked) (rd ra rb : Reg)
  /-- DIVR.U64 (R182). -/
  | divrU64 (c : Checked) (rd ra rb : Reg)
  /-- DIVSR.S32 (R183). -/
  | divsrS32 (c : Checked) (rd ra rb rc : Reg)
  /-- DIVSR.U32 (R183). -/
  | divsrU32 (c : Checked) (rd ra rb rc : Reg)
  /-- DIVSR.S64 (R183). -/
  | divsrS64 (c : Checked) (rd ra rb rc : Reg)
  /-- DIVSR.U64 (R183). -/
  | divsrU64 (c : Checked) (rd ra rb rc : Reg)
  /-- VDIVL (R203): `rnd` asks for rounding, `rr` absent is the assembler's "-" (`wr` = 0). -/
  | vdivl (rnd : Bool) (rq rx ry : Reg) (rr : Option Reg) (rw rnx rny : Reg)
deriving DecidableEq, Repr

/-- The form of ADD for a type. -/
def Instr.add (t : Ty) (l : Level) (rd ra rb : Reg) : Instr :=
  match t with
  | .s32 => .addS32 l rd ra rb
  | .u32 => .addU32 l rd ra rb
  | .s64 => .addS64 l rd ra rb
  | .u64 => .addU64 l rd ra rb

/-- The form of SUB for a type. -/
def Instr.sub (t : Ty) (l : Level) (rd ra rb : Reg) : Instr :=
  match t with
  | .s32 => .subS32 l rd ra rb
  | .u32 => .subU32 l rd ra rb
  | .s64 => .subS64 l rd ra rb
  | .u64 => .subU64 l rd ra rb

/-- The form of SHL for a type. -/
def Instr.shl (t : Ty) (l : Level) (rd ra rb : Reg) : Instr :=
  match t with
  | .s32 => .shlS32 l rd ra rb
  | .u32 => .shlU32 l rd ra rb
  | .s64 => .shlS64 l rd ra rb
  | .u64 => .shlU64 l rd ra rb

/-- The form of SHR for a type. -/
def Instr.shr (t : Ty) (rd ra rb : Reg) : Instr :=
  match t with
  | .s32 => .shrS32 rd ra rb
  | .u32 => .shrU32 rd ra rb
  | .s64 => .shrS64 rd ra rb
  | .u64 => .shrU64 rd ra rb

/-- The form of SHRR for a type. -/
def Instr.shrr (t : Ty) (rd ra rb : Reg) : Instr :=
  match t with
  | .s32 => .shrrS32 rd ra rb
  | .u32 => .shrrU32 rd ra rb
  | .s64 => .shrrS64 rd ra rb
  | .u64 => .shrrU64 rd ra rb

/-- The form of MS for a type. -/
def Instr.ms (t : Ty) (l : Level) (rd ra rb rc : Reg) : Instr :=
  match t with
  | .s32 => .msS32 l rd ra rb rc
  | .u32 => .msU32 l rd ra rb rc
  | .s64 => .msS64 l rd ra rb rc
  | .u64 => .msU64 l rd ra rb rc

/-- The form of MSR for a type. -/
def Instr.msr (t : Ty) (l : Level) (rd ra rb rc : Reg) : Instr :=
  match t with
  | .s32 => .msrS32 l rd ra rb rc
  | .u32 => .msrU32 l rd ra rb rc
  | .s64 => .msrS64 l rd ra rb rc
  | .u64 => .msrU64 l rd ra rb rc

/-- The form of DIVM for a type. -/
def Instr.divm (t : Ty) (c : Checked) (rd : Reg) (re : Option Reg) (ra rb : Reg) : Instr :=
  match t with
  | .s32 => .divmS32 c rd re ra rb
  | .u32 => .divmU32 c rd re ra rb
  | .s64 => .divmS64 c rd re ra rb
  | .u64 => .divmU64 c rd re ra rb

/-- The form of DIVR for a type. -/
def Instr.divr (t : Ty) (c : Checked) (rd ra rb : Reg) : Instr :=
  match t with
  | .s32 => .divrS32 c rd ra rb
  | .u32 => .divrU32 c rd ra rb
  | .s64 => .divrS64 c rd ra rb
  | .u64 => .divrU64 c rd ra rb

/-- The form of DIVSR for a type. -/
def Instr.divsr (t : Ty) (c : Checked) (rd ra rb rc : Reg) : Instr :=
  match t with
  | .s32 => .divsrS32 c rd ra rb rc
  | .u32 => .divsrU32 c rd ra rb rc
  | .s64 => .divsrS64 c rd ra rb rc
  | .u64 => .divsrU64 c rd ra rb rc

/-- The form of NEG for a width: 64 bits (`D` = 1) or 32. NEG has signed types only (R79). -/
def Instr.neg (wide : Bool) (l : Level) (rd ra : Reg) : Instr :=
  match wide with
  | false => .negS32 l rd ra
  | true => .negS64 l rd ra

/-- The form of MULW for a signedness (`U` = 1 unsigned). MULW has 32-bit types only (R79). -/
def Instr.mulw (unsigned : Bool) (rd ra rb : Reg) : Instr :=
  match unsigned with
  | false => .mulwS32 rd ra rb
  | true => .mulwU32 rd ra rb

end Sys2Proof
end

