-- ==== Sys2Proof/WellFormed.lean ====
section
/-! DEFINITION. Which terms of `Instr` have an encoding. The types of the operands already rule out a reserved `chk`
or `sel`, an unchecked divide and a checked right shift (30_encoding.md R79, R80); what is left is the one condition
between two fields: DIVM with a remainder needs `re` other than `rd` (R77). -/

namespace Sys2Proof

/-- R77, R79: the remainder register of DIVM, where there is one, is not its quotient register. -/
def remainderApart (rd : Reg) (re : Option Reg) : Bool :=
  match re with
  | none => true
  | some r => r != rd

/-- The terms that stand for an instruction word. -/
def Instr.wellFormed (i : Instr) : Bool :=
  match i with
  | .pset _ _ => true
  | .ppush _ _ => true
  | .ppop => true
  | .sdec _ => true
  | .report _ => true
  | .tmset _ => true
  | .tmget _ => true
  | .addS32 _ _ _ _ => true
  | .addU32 _ _ _ _ => true
  | .addS64 _ _ _ _ => true
  | .addU64 _ _ _ _ => true
  | .subS32 _ _ _ _ => true
  | .subU32 _ _ _ _ => true
  | .subS64 _ _ _ _ => true
  | .subU64 _ _ _ _ => true
  | .negS32 _ _ _ => true
  | .negS64 _ _ _ => true
  | .shlS32 _ _ _ _ => true
  | .shlU32 _ _ _ _ => true
  | .shlS64 _ _ _ _ => true
  | .shlU64 _ _ _ _ => true
  | .shrS32 _ _ _ => true
  | .shrU32 _ _ _ => true
  | .shrS64 _ _ _ => true
  | .shrU64 _ _ _ => true
  | .shrrS32 _ _ _ => true
  | .shrrU32 _ _ _ => true
  | .shrrS64 _ _ _ => true
  | .shrrU64 _ _ _ => true
  | .mulwS32 _ _ _ => true
  | .mulwU32 _ _ _ => true
  | .msS32 _ _ _ _ _ => true
  | .msU32 _ _ _ _ _ => true
  | .msS64 _ _ _ _ _ => true
  | .msU64 _ _ _ _ _ => true
  | .msrS32 _ _ _ _ _ => true
  | .msrU32 _ _ _ _ _ => true
  | .msrS64 _ _ _ _ _ => true
  | .msrU64 _ _ _ _ _ => true
  | .divmS32 _ rd re _ _ => remainderApart rd re
  | .divmU32 _ rd re _ _ => remainderApart rd re
  | .divmS64 _ rd re _ _ => remainderApart rd re
  | .divmU64 _ rd re _ _ => remainderApart rd re
  | .divrS32 _ _ _ _ => true
  | .divrU32 _ _ _ _ => true
  | .divrS64 _ _ _ _ => true
  | .divrU64 _ _ _ _ => true
  | .divsrS32 _ _ _ _ _ => true
  | .divsrU32 _ _ _ _ _ => true
  | .divsrS64 _ _ _ _ _ => true
  | .divsrU64 _ _ _ _ _ => true
  | .vdivl _ _ _ _ _ _ _ _ => true

end Sys2Proof
end

