-- ==== Sys2Proof/Decode.lean ====
section
/-! DEFINITION. Decoding of an instruction word (30_encoding.md R82), total on every 64-bit word and rejecting by
name the words R80 calls illegal, and encoding, its inverse (R85). The word is a 64-bit integer; it is never stored in
M, so no byte order applies to it (R70). -/

namespace Sys2Proof

/-- Why a word is no instruction: the items of R80. The unit makes no difference between them (cause ILLEGAL). -/
inductive Illegal where
  /-- R80 item 1: `opc` is not in the opcode map. -/
  | opcode
  /-- R80 item 2: a must-be-zero bit of the format is 1. -/
  | reservedBit
  /-- R80 item 3: a field this opcode does not use is not 0. -/
  | unusedField
  /-- R80 item 3: the `wr`/`re` or `wr`/`rr` condition fails. -/
  | remainderField
  /-- R80 item 4: `chk` is reserved or not a level of this opcode. -/
  | level
  /-- R80 item 4: `ty` is not a type of this opcode. -/
  | ofType
  /-- R80 items 5 and 6: `sel` is 5, 6 or 7. -/
  | selector
  /-- R80 item 5: `code` or `sel` is not 0 at a level other than E. -/
  | codeField
  /-- R80 item 6: TMSET with `act` above 1. -/
  | testMode
deriving DecidableEq, Repr

/-- The fields of Format A (R71). -/
structure FieldsA where
  opc : Opc
  u : BitVec 1
  d : BitVec 1
  chk : BitVec 2
  rd : Reg
  ra : Reg
  rb : Reg
  rc : Reg
  re : Reg
  code : Code
  sel : BitVec 3
  wr : BitVec 1
  zero : BitVec 4
deriving DecidableEq, Repr

/-- The fields of Format P (R72). -/
structure FieldsP where
  opc : Opc
  act : BitVec 4
  rd : Reg
  ra : Reg
  zeroLo : BitVec 12
  code : Code
  sel : BitVec 3
  zeroHi : BitVec 5
deriving DecidableEq, Repr

/-- The fields of Format V (R73). -/
structure FieldsV where
  opc : Opc
  rnd : BitVec 1
  wr : BitVec 1
  zeroLo : BitVec 2
  rq : Reg
  rx : Reg
  ry : Reg
  rr : Reg
  rw : Reg
  rnx : Reg
  rny : Reg
  zeroHi : BitVec 24
deriving DecidableEq, Repr

/-- Bits 7..0 of every word (R70). -/
def opcOf (w : InstrWord) : Opc := w.extractLsb' 0 8

/-- R71, read from a word. -/
def fieldsA (w : InstrWord) : FieldsA :=
  { opc := w.extractLsb' 0 8, u := w.extractLsb' 8 1, d := w.extractLsb' 9 1, chk := w.extractLsb' 10 2,
    rd := w.extractLsb' 12 4, ra := w.extractLsb' 16 4, rb := w.extractLsb' 20 4, rc := w.extractLsb' 24 4,
    re := w.extractLsb' 28 4, code := w.extractLsb' 32 24, sel := w.extractLsb' 56 3, wr := w.extractLsb' 59 1,
    zero := w.extractLsb' 60 4 }

/-- R72, read from a word. -/
def fieldsP (w : InstrWord) : FieldsP :=
  { opc := w.extractLsb' 0 8, act := w.extractLsb' 8 4, rd := w.extractLsb' 12 4, ra := w.extractLsb' 16 4,
    zeroLo := w.extractLsb' 20 12, code := w.extractLsb' 32 24, sel := w.extractLsb' 56 3,
    zeroHi := w.extractLsb' 59 5 }

/-- R73, read from a word. -/
def fieldsV (w : InstrWord) : FieldsV :=
  { opc := w.extractLsb' 0 8, rnd := w.extractLsb' 8 1, wr := w.extractLsb' 9 1, zeroLo := w.extractLsb' 10 2,
    rq := w.extractLsb' 12 4, rx := w.extractLsb' 16 4, ry := w.extractLsb' 20 4, rr := w.extractLsb' 24 4,
    rw := w.extractLsb' 28 4, rnx := w.extractLsb' 32 4, rny := w.extractLsb' 36 4, zeroHi := w.extractLsb' 40 24 }

/-- A test of R80: passes, or rejects the word with its reason. -/
def require (ok : Bool) (why : Illegal) : Except Illegal Unit :=
  if ok then .ok () else .error why

/-- The type field (R74). -/
def tyOf (f : FieldsA) : Ty :=
  if f.d = 0#1 then (if f.u = 0#1 then .s32 else .u32) else (if f.u = 0#1 then .s64 else .u64)

/-- The override selector (R76). -/
def overrideOf (sel : BitVec 3) : Except Illegal (Option Action) :=
  if sel = 0#3 then .ok none
  else if sel = 1#3 then .ok (some .terminate)
  else if sel = 2#3 then .ok (some .count)
  else if sel = 3#3 then .ok (some .setFlag)
  else if sel = 4#3 then .ok (some .callback)
  else .error .selector

/-- The error-code field (R76). -/
def ecfOf (sel : BitVec 3) (code : Code) : Except Illegal Ecf := do
  let o ← overrideOf sel
  .ok { override := o, code := code }

/-- R79, R80 item 5: `code` and `sel` are 0 at every level but E. -/
def requireNoCode (f : FieldsA) : Except Illegal Unit :=
  require (f.code == 0#24 && f.sel == 0#3) .codeField

/-- The level of an instruction that accepts E and D (R75, R79). -/
def checkedOf (f : FieldsA) : Except Illegal Checked :=
  if f.chk = 1#2 then do
    let e ← ecfOf f.sel f.code
    .ok (.explicit e)
  else if f.chk = 2#2 then do
    requireNoCode f
    .ok .deferred
  else .error .level

/-- The level of an instruction that accepts U, E and D (R75, R79). -/
def levelOf (f : FieldsA) : Except Illegal Level :=
  if f.chk = 0#2 then do
    requireNoCode f
    .ok .unchecked
  else do
    let c ← checkedOf f
    .ok (.checked c)

/-- R79 for an instruction that accepts U only. -/
def requireUnchecked (f : FieldsA) : Except Illegal Unit := do
  require (f.chk == 0#2) .level
  requireNoCode f

/-- R79 for an instruction without a second destination. -/
def requireNoRemainder (f : FieldsA) : Except Illegal Unit :=
  require (f.re == 0#4 && f.wr == 0#1) .unusedField

/-- R79 for an instruction of two sources and no second destination. -/
def requireTwoSources (f : FieldsA) : Except Illegal Unit :=
  require (f.rc == 0#4 && f.re == 0#4 && f.wr == 0#1) .unusedField

/-- The forms `xd, xa, xb` at levels U, E, D: ADD, SUB, SHL (R79). -/
def decodeTwo (mk : Ty → Level → Reg → Reg → Reg → Instr) (f : FieldsA) : Except Illegal Instr := do
  requireTwoSources f
  let l ← levelOf f
  .ok (mk (tyOf f) l f.rd f.ra f.rb)

/-- The forms `xd, xa, xb` at level U only: SHR, SHRR (R79). -/
def decodeTwoU (mk : Ty → Reg → Reg → Reg → Instr) (f : FieldsA) : Except Illegal Instr := do
  requireTwoSources f
  requireUnchecked f
  .ok (mk (tyOf f) f.rd f.ra f.rb)

/-- NEG: signed types only, no second source (R79). -/
def decodeNeg (f : FieldsA) : Except Illegal Instr := do
  require (f.u == 0#1) .ofType
  require (f.rb == 0#4 && f.rc == 0#4 && f.re == 0#4 && f.wr == 0#1) .unusedField
  let l ← levelOf f
  .ok (.neg (f.d == 1#1) l f.rd f.ra)

/-- MULW: 32-bit types only, level U only (R79). -/
def decodeMulw (f : FieldsA) : Except Illegal Instr := do
  require (f.d == 0#1) .ofType
  requireTwoSources f
  requireUnchecked f
  .ok (.mulw (f.u == 1#1) f.rd f.ra f.rb)

/-- The forms `xd, xa, xb, xc` at levels U, E, D: MS, MSR (R79). -/
def decodeThree (mk : Ty → Level → Reg → Reg → Reg → Reg → Instr) (f : FieldsA) : Except Illegal Instr := do
  requireNoRemainder f
  let l ← levelOf f
  .ok (mk (tyOf f) l f.rd f.ra f.rb f.rc)

/-- The remainder field of DIVM: `wr` = 0 needs `re` = 0, `wr` = 1 needs `re` other than `rd` (R79). -/
def remainderOf (f : FieldsA) : Except Illegal (Option Reg) :=
  if f.wr = 0#1 then do
    require (f.re == 0#4) .remainderField
    .ok none
  else do
    require (f.re != f.rd) .remainderField
    .ok (some f.re)

/-- DIVM (R79). -/
def decodeDivm (f : FieldsA) : Except Illegal Instr := do
  require (f.rc == 0#4) .unusedField
  let r ← remainderOf f
  let c ← checkedOf f
  .ok (.divm (tyOf f) c f.rd r f.ra f.rb)

/-- DIVR (R79). -/
def decodeDivr (f : FieldsA) : Except Illegal Instr := do
  requireTwoSources f
  let c ← checkedOf f
  .ok (.divr (tyOf f) c f.rd f.ra f.rb)

/-- DIVSR (R79). -/
def decodeDivsr (f : FieldsA) : Except Illegal Instr := do
  requireNoRemainder f
  let c ← checkedOf f
  .ok (.divsr (tyOf f) c f.rd f.ra f.rb f.rc)

/-- Format A: the opcode map of R79 for opcodes 0x10 to 0x42. -/
def decodeA (f : FieldsA) : Except Illegal Instr := do
  require (f.zero == 0#4) .reservedBit
  if f.opc = 0x10#8 then decodeTwo Instr.add f
  else if f.opc = 0x11#8 then decodeTwo Instr.sub f
  else if f.opc = 0x12#8 then decodeNeg f
  else if f.opc = 0x20#8 then decodeTwo Instr.shl f
  else if f.opc = 0x21#8 then decodeTwoU Instr.shr f
  else if f.opc = 0x22#8 then decodeTwoU Instr.shrr f
  else if f.opc = 0x30#8 then decodeMulw f
  else if f.opc = 0x31#8 then decodeThree Instr.ms f
  else if f.opc = 0x32#8 then decodeThree Instr.msr f
  else if f.opc = 0x40#8 then decodeDivm f
  else if f.opc = 0x41#8 then decodeDivr f
  else if f.opc = 0x42#8 then decodeDivsr f
  else .error .opcode

/-- Format P: the opcode map of R79 for opcodes 0x01 to 0x07. -/
def decodeP (f : FieldsP) : Except Illegal Instr := do
  require (f.zeroLo == 0#12 && f.zeroHi == 0#5) .reservedBit
  if f.opc = 0x01#8 then do
    require (f.rd == 0#4 && f.code == 0#24 && f.sel == 0#3) .unusedField
    .ok (.pset f.act f.ra)
  else if f.opc = 0x02#8 then do
    require (f.rd == 0#4 && f.code == 0#24 && f.sel == 0#3) .unusedField
    .ok (.ppush f.act f.ra)
  else if f.opc = 0x03#8 then do
    require (f.act == 0#4 && f.rd == 0#4 && f.ra == 0#4 && f.code == 0#24 && f.sel == 0#3) .unusedField
    .ok .ppop
  else if f.opc = 0x04#8 then do
    require (f.act == 0#4 && f.rd == 0#4 && f.ra == 0#4 && f.sel == 0#3) .unusedField
    .ok (.sdec f.code)
  else if f.opc = 0x05#8 then do
    require (f.act == 0#4 && f.rd == 0#4 && f.ra == 0#4) .unusedField
    let e ← ecfOf f.sel f.code
    .ok (.report e)
  else if f.opc = 0x06#8 then do
    require (f.rd == 0#4 && f.ra == 0#4 && f.code == 0#24 && f.sel == 0#3) .unusedField
    require (f.act == 0#4 || f.act == 1#4) .testMode
    .ok (.tmset (f.act == 1#4))
  else if f.opc = 0x07#8 then do
    require (f.act == 0#4 && f.ra == 0#4 && f.code == 0#24 && f.sel == 0#3) .unusedField
    .ok (.tmget f.rd)
  else .error .opcode

/-- Format V: VDIVL (R73, R79). -/
def decodeV (f : FieldsV) : Except Illegal Instr := do
  require (f.zeroLo == 0#2 && f.zeroHi == 0#24) .reservedBit
  if f.wr = 0#1 then do
    require (f.rr == 0#4) .remainderField
    .ok (.vdivl (f.rnd == 1#1) f.rq f.rx f.ry none f.rw f.rnx f.rny)
  else .ok (.vdivl (f.rnd == 1#1) f.rq f.rx f.ry (some f.rr) f.rw f.rnx f.rny)

/-- R82: `opc` alone selects the format; decoding reads no state. -/
def decode (w : InstrWord) : Except Illegal Instr :=
  if 1 ≤ (opcOf w).toNat ∧ (opcOf w).toNat ≤ 7 then decodeP (fieldsP w)
  else if opcOf w = 0x50#8 then decodeV (fieldsV w)
  else decodeA (fieldsA w)

/-- The instruction the decoder reads from a word whose bits are the number `w` (bit 0 least significant), every bit
above `nbits` zero. The word is presented whole, so there are no bytes to lay out (R70). -/
def decodeTableWord (nbits w : Nat) : Option Instr :=
  match decode (BitVec.ofNat 64 (w % 2 ^ nbits)) with
  | .ok i => some i
  | .error _ => none

/-! ### Encoding (R85) -/

/-- R71, written to a word. -/
def wordA (f : FieldsA) : InstrWord :=
  f.zero ++ f.wr ++ f.sel ++ f.code ++ f.re ++ f.rc ++ f.rb ++ f.ra ++ f.rd ++ f.chk ++ f.d ++ f.u ++ f.opc

/-- R72, written to a word. -/
def wordP (f : FieldsP) : InstrWord :=
  f.zeroHi ++ f.sel ++ f.code ++ f.zeroLo ++ f.ra ++ f.rd ++ f.act ++ f.opc

/-- R73, written to a word. -/
def wordV (f : FieldsV) : InstrWord :=
  f.zeroHi ++ f.rny ++ f.rnx ++ f.rw ++ f.rr ++ f.ry ++ f.rx ++ f.rq ++ f.zeroLo ++ f.wr ++ f.rnd ++ f.opc

/-- The bit `U` of a type (R74). -/
def uBit (t : Ty) : BitVec 1 :=
  match t with
  | .s32 => 0#1
  | .u32 => 1#1
  | .s64 => 0#1
  | .u64 => 1#1

/-- The bit `D` of a type (R74). -/
def dBit (t : Ty) : BitVec 1 :=
  match t with
  | .s32 => 0#1
  | .u32 => 0#1
  | .s64 => 1#1
  | .u64 => 1#1

/-- The selector of an override (R76). -/
def selBits (o : Option Action) : BitVec 3 :=
  match o with
  | none => 0#3
  | some .terminate => 1#3
  | some .count => 2#3
  | some .setFlag => 3#3
  | some .callback => 4#3

/-- `chk` of a level (R75). -/
def chkBits (l : Level) : BitVec 2 :=
  match l with
  | .unchecked => 0#2
  | .checked (.explicit _) => 1#2
  | .checked .deferred => 2#2

/-- `code` of a level: 0 except at level E (R79). -/
def codeBits (l : Level) : Code :=
  match l with
  | .unchecked => 0#24
  | .checked (.explicit e) => e.code
  | .checked .deferred => 0#24

/-- `sel` of a level: 0 except at level E (R79). -/
def selOfLevel (l : Level) : BitVec 3 :=
  match l with
  | .unchecked => 0#3
  | .checked (.explicit e) => selBits e.override
  | .checked .deferred => 0#3

/-- The bit `wr` of an optional remainder (R71, R73). -/
def wrBit (r : Option Reg) : BitVec 1 :=
  match r with
  | none => 0#1
  | some _ => 1#1

/-- The register field of an optional remainder, 0 where there is none (R79). -/
def remainderBits (r : Option Reg) : Reg :=
  match r with
  | none => 0#4
  | some x => x

/-- One bit for a Boolean operand. -/
def bit (b : Bool) : BitVec 1 :=
  match b with
  | false => 0#1
  | true => 1#1

/-- A Format A instruction without remainder. -/
def encA (opc : Opc) (t : Ty) (l : Level) (rd ra rb rc : Reg) : InstrWord :=
  wordA { opc := opc, u := uBit t, d := dBit t, chk := chkBits l, rd := rd, ra := ra, rb := rb, rc := rc, re := 0#4,
          code := codeBits l, sel := selOfLevel l, wr := 0#1, zero := 0#4 }

/-- A Format A instruction with an optional remainder (DIVM). -/
def encDivm (opc : Opc) (t : Ty) (l : Level) (rd : Reg) (re : Option Reg) (ra rb : Reg) : InstrWord :=
  wordA { opc := opc, u := uBit t, d := dBit t, chk := chkBits l, rd := rd, ra := ra, rb := rb, rc := 0#4,
          re := remainderBits re, code := codeBits l, sel := selOfLevel l, wr := wrBit re, zero := 0#4 }

/-- A Format P instruction. -/
def encP (opc : Opc) (act : BitVec 4) (rd ra : Reg) (code : Code) (sel : BitVec 3) : InstrWord :=
  wordP { opc := opc, act := act, rd := rd, ra := ra, zeroLo := 0#12, code := code, sel := sel, zeroHi := 0#5 }

/-- The `opc` of an instruction (R79). -/
def Instr.opcode (i : Instr) : Opc :=
  match i with
  | .pset _ _ => 0x01#8
  | .ppush _ _ => 0x02#8
  | .ppop => 0x03#8
  | .sdec _ => 0x04#8
  | .report _ => 0x05#8
  | .tmset _ => 0x06#8
  | .tmget _ => 0x07#8
  | .addS32 _ _ _ _ => 0x10#8
  | .addU32 _ _ _ _ => 0x10#8
  | .addS64 _ _ _ _ => 0x10#8
  | .addU64 _ _ _ _ => 0x10#8
  | .subS32 _ _ _ _ => 0x11#8
  | .subU32 _ _ _ _ => 0x11#8
  | .subS64 _ _ _ _ => 0x11#8
  | .subU64 _ _ _ _ => 0x11#8
  | .negS32 _ _ _ => 0x12#8
  | .negS64 _ _ _ => 0x12#8
  | .shlS32 _ _ _ _ => 0x20#8
  | .shlU32 _ _ _ _ => 0x20#8
  | .shlS64 _ _ _ _ => 0x20#8
  | .shlU64 _ _ _ _ => 0x20#8
  | .shrS32 _ _ _ => 0x21#8
  | .shrU32 _ _ _ => 0x21#8
  | .shrS64 _ _ _ => 0x21#8
  | .shrU64 _ _ _ => 0x21#8
  | .shrrS32 _ _ _ => 0x22#8
  | .shrrU32 _ _ _ => 0x22#8
  | .shrrS64 _ _ _ => 0x22#8
  | .shrrU64 _ _ _ => 0x22#8
  | .mulwS32 _ _ _ => 0x30#8
  | .mulwU32 _ _ _ => 0x30#8
  | .msS32 _ _ _ _ _ => 0x31#8
  | .msU32 _ _ _ _ _ => 0x31#8
  | .msS64 _ _ _ _ _ => 0x31#8
  | .msU64 _ _ _ _ _ => 0x31#8
  | .msrS32 _ _ _ _ _ => 0x32#8
  | .msrU32 _ _ _ _ _ => 0x32#8
  | .msrS64 _ _ _ _ _ => 0x32#8
  | .msrU64 _ _ _ _ _ => 0x32#8
  | .divmS32 _ _ _ _ _ => 0x40#8
  | .divmU32 _ _ _ _ _ => 0x40#8
  | .divmS64 _ _ _ _ _ => 0x40#8
  | .divmU64 _ _ _ _ _ => 0x40#8
  | .divrS32 _ _ _ _ => 0x41#8
  | .divrU32 _ _ _ _ => 0x41#8
  | .divrS64 _ _ _ _ => 0x41#8
  | .divrU64 _ _ _ _ => 0x41#8
  | .divsrS32 _ _ _ _ _ => 0x42#8
  | .divsrU32 _ _ _ _ _ => 0x42#8
  | .divsrS64 _ _ _ _ _ => 0x42#8
  | .divsrU64 _ _ _ _ _ => 0x42#8
  | .vdivl _ _ _ _ _ _ _ _ => 0x50#8

/-- The word of an instruction (R85). -/
def encode (i : Instr) : InstrWord :=
  match i with
  | .pset act ra => encP 0x01#8 act 0#4 ra 0#24 0#3
  | .ppush act ra => encP 0x02#8 act 0#4 ra 0#24 0#3
  | .ppop => encP 0x03#8 0#4 0#4 0#4 0#24 0#3
  | .sdec code => encP 0x04#8 0#4 0#4 0#4 code 0#3
  | .report ecf => encP 0x05#8 0#4 0#4 0#4 ecf.code (selBits ecf.override)
  | .tmset enabled => encP 0x06#8 (if enabled then 1#4 else 0#4) 0#4 0#4 0#24 0#3
  | .tmget rd => encP 0x07#8 0#4 rd 0#4 0#24 0#3
  | .addS32 l rd ra rb => encA 0x10#8 .s32 l rd ra rb 0#4
  | .addU32 l rd ra rb => encA 0x10#8 .u32 l rd ra rb 0#4
  | .addS64 l rd ra rb => encA 0x10#8 .s64 l rd ra rb 0#4
  | .addU64 l rd ra rb => encA 0x10#8 .u64 l rd ra rb 0#4
  | .subS32 l rd ra rb => encA 0x11#8 .s32 l rd ra rb 0#4
  | .subU32 l rd ra rb => encA 0x11#8 .u32 l rd ra rb 0#4
  | .subS64 l rd ra rb => encA 0x11#8 .s64 l rd ra rb 0#4
  | .subU64 l rd ra rb => encA 0x11#8 .u64 l rd ra rb 0#4
  | .negS32 l rd ra => encA 0x12#8 .s32 l rd ra 0#4 0#4
  | .negS64 l rd ra => encA 0x12#8 .s64 l rd ra 0#4 0#4
  | .shlS32 l rd ra rb => encA 0x20#8 .s32 l rd ra rb 0#4
  | .shlU32 l rd ra rb => encA 0x20#8 .u32 l rd ra rb 0#4
  | .shlS64 l rd ra rb => encA 0x20#8 .s64 l rd ra rb 0#4
  | .shlU64 l rd ra rb => encA 0x20#8 .u64 l rd ra rb 0#4
  | .shrS32 rd ra rb => encA 0x21#8 .s32 .unchecked rd ra rb 0#4
  | .shrU32 rd ra rb => encA 0x21#8 .u32 .unchecked rd ra rb 0#4
  | .shrS64 rd ra rb => encA 0x21#8 .s64 .unchecked rd ra rb 0#4
  | .shrU64 rd ra rb => encA 0x21#8 .u64 .unchecked rd ra rb 0#4
  | .shrrS32 rd ra rb => encA 0x22#8 .s32 .unchecked rd ra rb 0#4
  | .shrrU32 rd ra rb => encA 0x22#8 .u32 .unchecked rd ra rb 0#4
  | .shrrS64 rd ra rb => encA 0x22#8 .s64 .unchecked rd ra rb 0#4
  | .shrrU64 rd ra rb => encA 0x22#8 .u64 .unchecked rd ra rb 0#4
  | .mulwS32 rd ra rb => encA 0x30#8 .s32 .unchecked rd ra rb 0#4
  | .mulwU32 rd ra rb => encA 0x30#8 .u32 .unchecked rd ra rb 0#4
  | .msS32 l rd ra rb rc => encA 0x31#8 .s32 l rd ra rb rc
  | .msU32 l rd ra rb rc => encA 0x31#8 .u32 l rd ra rb rc
  | .msS64 l rd ra rb rc => encA 0x31#8 .s64 l rd ra rb rc
  | .msU64 l rd ra rb rc => encA 0x31#8 .u64 l rd ra rb rc
  | .msrS32 l rd ra rb rc => encA 0x32#8 .s32 l rd ra rb rc
  | .msrU32 l rd ra rb rc => encA 0x32#8 .u32 l rd ra rb rc
  | .msrS64 l rd ra rb rc => encA 0x32#8 .s64 l rd ra rb rc
  | .msrU64 l rd ra rb rc => encA 0x32#8 .u64 l rd ra rb rc
  | .divmS32 c rd re ra rb => encDivm 0x40#8 .s32 (.checked c) rd re ra rb
  | .divmU32 c rd re ra rb => encDivm 0x40#8 .u32 (.checked c) rd re ra rb
  | .divmS64 c rd re ra rb => encDivm 0x40#8 .s64 (.checked c) rd re ra rb
  | .divmU64 c rd re ra rb => encDivm 0x40#8 .u64 (.checked c) rd re ra rb
  | .divrS32 c rd ra rb => encA 0x41#8 .s32 (.checked c) rd ra rb 0#4
  | .divrU32 c rd ra rb => encA 0x41#8 .u32 (.checked c) rd ra rb 0#4
  | .divrS64 c rd ra rb => encA 0x41#8 .s64 (.checked c) rd ra rb 0#4
  | .divrU64 c rd ra rb => encA 0x41#8 .u64 (.checked c) rd ra rb 0#4
  | .divsrS32 c rd ra rb rc => encA 0x42#8 .s32 (.checked c) rd ra rb rc
  | .divsrU32 c rd ra rb rc => encA 0x42#8 .u32 (.checked c) rd ra rb rc
  | .divsrS64 c rd ra rb rc => encA 0x42#8 .s64 (.checked c) rd ra rb rc
  | .divsrU64 c rd ra rb rc => encA 0x42#8 .u64 (.checked c) rd ra rb rc
  | .vdivl rnd rq rx ry rr rw rnx rny => 
    wordV { opc := 0x50#8, rnd := bit rnd, wr := wrBit rr, zeroLo := 0#2, rq := rq, rx := rx, ry := ry,
            rr := remainderBits rr, rw := rw, rnx := rnx, rny := rny, zeroHi := 0#24 }

end Sys2Proof
end

