-- ==== Sys2Proof/Config.lean ====
section
/-! DEFINITION. What one instance of sub002-CORE fixes (00_scope.md R5) and the values the spec leaves free.
An `opaque` constant has no body: nothing in Lean knows its value, so a claim holds whatever it is. -/

namespace Sys2Proof.Config

/-- NREG (R5). -/
abbrev nReg : Nat := 16

/-- PS_DEPTH (R5, 90_conflicts.md C1): the greatest number of policy records, the current one included. -/
abbrev psDepth : Nat := 5

/-- DIGIT_BITS (R5): the radix of a digit vector is 2 to this power. -/
abbrev digitBits : Nat := 32

/-- FLAG_BITS (R5): the width of a flag word. -/
abbrev flagBits : Nat := 32

/-- The two open parameters of R5, "an argument of the model". They are constants of an instance: no step changes
them. MEM_WORDS lies in 1..2^32, so the 32-bit number held is MEM_WORDS - 1. -/
structure Params where
  memWordsLess1 : BitVec 32
  vecMsdFirst : Bool
deriving DecidableEq, Repr

/-- MEM_WORDS (R5, R50). -/
def Params.memWords (p : Params) : Nat := p.memWordsLess1.toNat + 1

/-- MEM_WORDS - 1 of the instance that `State.reset` is a state of (U13, log 4). -/
opaque memWordsLess1 : BitVec 32

/-- VEC_MSD_FIRST of the instance that `State.reset` is a state of (U2, log 4). -/
opaque vecMsdFirst : Bool

/-- The parameters of the instance that `State.reset` is a state of. -/
def params : Params := { memWordsLess1 := memWordsLess1, vecMsdFirst := vecMsdFirst }

/-- FREE VALUE: the word at an address of M that nothing has written since power-up (R271, U12, log 5). -/
opaque powerUpWord : Nat → Word

/-- FREE VALUE: the word a VDIVL leaves in its scratch region, one fresh value a word (R206, U7, log 6). -/
opaque scratchWord : Nat → Word

end Sys2Proof.Config
end

