-- ==== Sys2Proof/Machine/State.lean ====
section
/-! DEFINITION. The state of sub002-CORE (10_state.md), as plain data, and the reasons a step can stop. -/

namespace Sys2Proof.Machine

/-- A halt cause (60_exceptions.md R231): exactly nine values, codes 0 to 8 (U9, log 12). -/
inductive Cause where
  | none | terminate | divZero | shiftRange | badAction | pstackOvf | illegal | memFault | cbAbort
deriving DecidableEq, Repr

/-- RUNSTATE (10_state.md R29). -/
inductive RunState where
  | run | cbwait | halted
deriving DecidableEq, Repr

/-- A policy record (10_state.md R25). -/
structure PolicyRecord where
  act : Action
  res : Handle
deriving DecidableEq, Repr

/-- A register write still to be made: register number and value (10_state.md R31). -/
abbrev RegWrite := Reg × Dword

/-- The pending-instruction record PEND (10_state.md R31). -/
structure Pending where
  opc : Opc
  code : Code
  writes : List RegWrite
deriving DecidableEq, Repr

/-- An event of the log EV (10_state.md R32, 60_exceptions.md R238). -/
inductive Event where
  | msg (cause : Cause) (cc : Count) (opc : Opc) (code : Code) (halted : Bool)
  | callback (handle : Handle) (cc : Count) (opc : Opc) (code : Code)
deriving DecidableEq, Repr

/-- The data memory M (20_memory.md R50): (word address, word) pairs, addresses strictly rising. A word nothing has
written since power-up is not listed (log 5). -/
abbrev Memory := List (Nat × Word)

/-- The answer of the host to a callback (60_exceptions.md R239). -/
inductive CallbackAnswer where
  | resume | abort
deriving DecidableEq, Repr

/-- The host's transactions (10_state.md R35). Register numbers and addresses are numbers of any size: those the
contract excludes can be written down and are stopped on. -/
inductive HostTxn where
  | reset
  | writeReg (i : Nat) (v : Dword)
  | readReg (i : Nat)
  | writeMem (a : Nat) (v : Word)
  | readMem (a : Nat)
  | issue (w : InstrWord)
  | readStatus
  | readEvents
  | callbackReply (r : CallbackAnswer)
deriving DecidableEq, Repr

/-- What ReadStatus returns (10_state.md R35). -/
structure Status where
  runState : RunState
  cc : Count
  psp : Fin Config.psDepth
  ps : Vector PolicyRecord Config.psDepth
  dec : Code
  tm : Bool
  hcause : Cause
  hcc : Count
  hop : Opc
  hec : Code
deriving DecidableEq, Repr

/-- The answer of a read transaction (10_state.md R35, log 2). -/
inductive HostReply where
  | reg (v : Dword)
  | mem (v : Word)
  | status (st : Status)
  | events (l : List Event)
deriving DecidableEq, Repr

/-- The complete state of the unit (10_state.md section 1), the parameters of the instance (log 4) and the model's own
fields for what the host still asks and what it was answered (logs 1, 2) and for free values drawn (log 6). -/
structure State where
  /-- `x[0]`..`x[15]` (R20). -/
  regs : Vector Dword Config.nReg
  /-- CC (R22). -/
  cc : Count
  /-- `PS[0]`..`PS[4]` (R24). -/
  ps : Vector PolicyRecord Config.psDepth
  /-- PSP (R24). -/
  psp : Fin Config.psDepth
  /-- DEC (R26). -/
  dec : Code
  /-- TM (R27). -/
  tm : Bool
  /-- RUNSTATE (R29). -/
  runState : RunState
  /-- HCAUSE (R30). -/
  hcause : Cause
  /-- HCC (R30). -/
  hcc : Count
  /-- HOP (R30). -/
  hop : Opc
  /-- HEC (R30). -/
  hec : Code
  /-- PEND (R31). -/
  pend : Option Pending
  /-- EV (R32), oldest event first. -/
  ev : List Event
  /-- M (R33, R50). -/
  mem : Memory
  /-- MEM_WORDS and VEC_MSD_FIRST of this instance (R5, log 4). -/
  params : Config.Params
  /-- MODEL's own: the host's transactions still to be performed, next first (R35, log 1). -/
  input : List HostTxn
  /-- MODEL's own: the answers of the read transactions, oldest first (R35, log 2). -/
  replies : List HostReply
  /-- MODEL's own: how many free values have been drawn (R206, log 6). -/
  draws : Nat
deriving DecidableEq, Repr

/-- `{ act = 0 (Terminate), res = 0 }`, the record every stack entry holds after Reset (10_state.md R37). -/
def PolicyRecord.atReset : PolicyRecord := { act := .terminate, res := 0 }

/-- The machine right after the first Reset (10_state.md R37, 70_reset_and_hazards.md R270): nothing has been written
to M since power-up, and the host has asked for nothing yet. -/
def State.reset : State where
  regs := Vector.replicate Config.nReg 0
  cc := 0
  ps := Vector.replicate Config.psDepth PolicyRecord.atReset
  psp := 0
  dec := 0
  tm := false
  runState := .run
  hcause := .none
  hcc := 0
  hop := 0
  hec := 0
  pend := none
  ev := []
  mem := []
  params := Config.params
  input := []
  replies := []
  draws := 0

/-- The machine stops with a fault. The spec's own exceptional conditions are no faults here: they are states
(HALTED, CBWAIT) the unit goes to. -/
inductive Fault where
  /-- Raised by CallbackReply in CBWAIT when no instruction is pending: a state with no PEND to reply to, which no run
  reaches (10_state.md R31, log 13). Safe: the spec has no such state, and no instruction raises it. -/
  | nothingPending
deriving DecidableEq, Repr

/-- What the model refuses: the cases for which the spec's own word is "refuse". -/
inductive Refusal where
  /-- Raised by an arm of exec that has no meaning; no arm does. Safe. -/
  | notModelled (mnemonic : String)
  /-- Raised by a report whose override names an action other than Terminate and than the current record's
  (40_policy.md R100, U5, log 8). Safe: the spec gives no effect. -/
  | overrideKind
  /-- Raised by a SetFlag action with an error code of 32 or more (40_policy.md R111, U4, log 7). Safe: the spec gives
  no effect. -/
  | setFlagCode
  /-- Raised by VDIVL when its regions overlap in a way R202 does not allow (45_vdivl.md R202, U6, log 9). Safe: the
  spec gives no effect. -/
  | vdivlOverlap
  /-- Raised by a host transaction outside its allowed run state, and by WriteReg and ReadReg of a register number
  above 15 (10_state.md R35, U11, log 10). Safe: outside the host's contract. -/
  | hostContract
  /-- Raised by the host transactions ReadMem, and WriteMem in RUN, of an address at or above MEM_WORDS: R35 says that
  the model refuses them (10_state.md R35, U11, log 11). Safe: outside the host's contract. -/
  | hostAddress (a : Nat)
deriving DecidableEq, Repr

/-- What the model answers for one instruction or one step. -/
abbrev Result := Host.Outcome State Fault Refusal

/-- How a procedure that an instruction calls ends (00_scope.md R13, 40_policy.md R100): it returns and the
instruction goes on, or the instruction ends there (halted, suspended, or refused). -/
inductive Ended where
  | returned (s : State)
  | stopped (o : Result)
deriving Repr

/-- A region `[base, base + len)` of M (20_memory.md R51). -/
structure Region where
  base : Nat
  len : Nat
deriving DecidableEq, Repr

end Sys2Proof.Machine
end

