-- ==== Sys2Proof/Machine/Operands.lean ====
section
/-! DEFINITION. How an instruction reads its operands and how a value becomes the contents of a register
(00_scope.md R7, R8, R11; 10_state.md R21). -/

namespace Sys2Proof

/-- `N`, the width of a type (R8). -/
def Ty.width (t : Ty) : Nat :=
  match t with
  | .s32 => 32
  | .u32 => 32
  | .s64 => 64
  | .u64 => 64

/-- Whether a type is signed (R8). -/
def Ty.signed (t : Ty) : Bool :=
  match t with
  | .s32 => true
  | .u32 => false
  | .s64 => true
  | .u64 => false

/-- `sval_N` or `uval_N` by signedness (R7). -/
def valueOf (signed : Bool) {n : Nat} (v : BitVec n) : Int :=
  if signed then v.toInt else (v.toNat : Int)

/-- `val_T` of a register's contents: only bits N-1..0 are read (R8, R21). -/
def Ty.val (t : Ty) (v : Dword) : Int := valueOf t.signed (v.setWidth t.width)

namespace Machine

/-- `x[r]` (R11, R20). -/
def State.reg (s : State) (r : Reg) : Dword := s.regs[r.toNat]'(r.isLt)

/-- A source of type T (R21). -/
def State.source (s : State) (t : Ty) (r : Reg) : Int := t.val (s.reg r)

/-- A shift amount or a scale: the whole register, signed (R21, R140). -/
def State.amount (s : State) (r : Reg) : Int := (s.reg r).toInt

/-- The multiplier of MS and MSR: the low 32 bits, with the signedness of T (R160). -/
def State.multiplier (s : State) (t : Ty) (r : Reg) : Int := valueOf t.signed ((s.reg r).setWidth 32)

/-- The dividend of a fixed-width division: the whole register, with the signedness of T (R180). -/
def State.dividend (s : State) (t : Ty) (r : Reg) : Int := valueOf t.signed (s.reg r)

/-- A resource handle: the low 32 bits (R21, R101). -/
def State.handle (s : State) (r : Reg) : Handle := (s.reg r).setWidth 32

/-- An address or a length: the low 32 bits, unsigned (R21, R200). -/
def State.address (s : State) (r : Reg) : Nat := (s.handle r).toNat

/-- The action kind that the 4-bit field `act` names, where it names one (R25, R72). -/
def actionOf (act : BitVec 4) : Option Action :=
  if act = 0#4 then some .terminate
  else if act = 1#4 then some .count
  else if act = 2#4 then some .setFlag
  else if act = 3#4 then some .callback
  else none

/-- The error code of a checked instruction (R108). -/
def State.checkedCode (s : State) (c : Checked) : Code :=
  match c with
  | .explicit e => e.code
  | .deferred => s.dec

/-- The override of a checked instruction; a deferred one carries none (R108). -/
def checkedOverride (c : Checked) : Option Action :=
  match c with
  | .explicit e => e.override
  | .deferred => none

/-- `ec` of an instruction at any level: 0 at level U, where it is only the HEC of a fatal (R108). -/
def State.levelCode (s : State) (l : Level) : Code :=
  match l with
  | .unchecked => 0
  | .checked c => s.checkedCode c

end Machine

end Sys2Proof
end

