-- ==== Sys2Proof/Machine/Flags.lean ====
section
/-! DEFINITION. Range tests, wrapping and saturation. The unit has no flag of any kind (10_state.md R23): what another
machine would keep in an overflow flag is, here, the predicate an instruction hands to Finish (40_policy.md R109). -/

namespace Sys2Proof

/-- `MIN_T` (00_scope.md R8). -/
def Ty.minVal (t : Ty) : Int := if t.signed then -(2 ^ (t.width - 1)) else 0

/-- `MAX_T` (R8). -/
def Ty.maxVal (t : Ty) : Int := if t.signed then 2 ^ (t.width - 1) - 1 else 2 ^ t.width - 1

/-- `inrange_T` (R8). -/
def Ty.inRange (t : Ty) (n : Int) : Bool := decide (t.minVal ≤ n) && decide (n ≤ t.maxVal)

/-- `wrap_T` (R8). -/
def Ty.wrap (t : Ty) (n : Int) : BitVec t.width := BitVec.ofInt t.width n

/-- `SAT_T` (R8): for an unsigned type and a negative true result the value is 0. -/
def Ty.sat (t : Ty) (neg : Bool) : BitVec t.width := t.wrap (if neg then t.minVal else t.maxVal)

/-- The register contents `zext_64(wrap_T(n))` of a result of type T (R8, R21). -/
def Ty.wrapped (t : Ty) (n : Int) : Dword := (t.wrap n).setWidth 64

/-- The register contents `zext_64(SAT_T(neg))` (R8, R21). -/
def Ty.saturated (t : Ty) (neg : Bool) : Dword := (t.sat neg).setWidth 64

/-- `LIM`, the quotient magnitude from which a quotient overflows (44_divide.md R184). -/
def Ty.quotientLimit (t : Ty) : Nat := if t.signed then 2 ^ (t.width - 1) else 2 ^ t.width

namespace Machine

/-- `sgn(n) * sgn(d) < 0` (R184). -/
def oppositeSigns (n d : Int) : Bool := decide (n.sign * d.sign < 0)

/-- The range of the 64-bit dividend of a signedness, which a scaled dividend must fit (R183). -/
def fitsDividend (signed : Bool) (n : Int) : Bool :=
  if signed then decide (-(2 ^ 63) ≤ n) && decide (n ≤ 2 ^ 63 - 1) else decide (0 ≤ n) && decide (n ≤ 2 ^ 64 - 1)

end Machine

end Sys2Proof
end

