-- ==== Sys2Proof/Machine/Ops.lean ====
section
/-! DEFINITION. The named operations over memory, registers, the policy stack and the run state: what every meaning is
made of. The fatal procedure (60_exceptions.md R232), the report dispatch (40_policy.md R100) and the return from a
callback (R239) stand here once. -/

namespace Sys2Proof.Machine

/-! ### Memory (20_memory.md) -/

/-- The word listed at an address, if anything has written one. -/
def memFind (m : Memory) (a : Nat) : Option Word :=
  match m with
  | [] => none
  | (b, w) :: rest => if a = b then some w else memFind rest a

/-- The memory with a word written at an address, in its place among the rising addresses. -/
def memInsert (m : Memory) (a : Nat) (v : Word) : Memory :=
  match m with
  | [] => [(a, v)]
  | (b, w) :: rest =>
    if a < b then (a, v) :: (b, w) :: rest
    else if a = b then (a, v) :: rest
    else (b, w) :: memInsert rest a v

/-- The canonical form of a memory: addresses strictly rising. An unlisted address has no entry value of its own, so
no entry repeats it (log 5). -/
abbrev Memory.wf (m : Memory) : Prop := m.Pairwise (fun x y => x.1 < y.1)

/-- The word of M at an address: the one last written, or the free power-up value (R57, R271, log 5). -/
def memWord (m : Memory) (a : Nat) : Word :=
  match memFind m a with
  | some w => w
  | none => Config.powerUpWord a

/-- A memory of `n` words at addresses 0 .. `n` - 1, all holding `v`. -/
def memFilled (n : Nat) (v : Word) : Memory := (List.range n).map (fun a => (a, v))

/-- `M[a]` (R12). -/
def State.readWord (s : State) (a : Nat) : Word := memWord s.mem a

/-- `M[a] <- v` (R12). -/
def State.writeWord (s : State) (a : Nat) (v : Word) : State := { s with mem := memInsert s.mem a v }

/-- MEM_WORDS (R5). -/
def State.memWords (s : State) : Nat := s.params.memWords

/-- R51: the address is below MEM_WORDS. -/
def State.validAddress (s : State) (a : Nat) : Bool := decide (a < s.memWords)

/-- R51: the region ends at or below MEM_WORDS, the sum taken without wrap. -/
def State.validRegion (s : State) (r : Region) : Bool := decide (r.base + r.len ≤ s.memWords)

/-- 45_vdivl.md R202: both regions are non-empty and share a word. -/
def Region.overlaps (r q : Region) : Bool :=
  decide (0 < r.len) && decide (0 < q.len) && decide (r.base < q.base + q.len) && decide (q.base < r.base + r.len)

/-- `pos(i)` of a digit vector of length `n` (R53). -/
def digitPos (msdFirst : Bool) (n i : Nat) : Nat := if msdFirst then n - 1 - i else i

/-- The number whose digits, least significant first, are a list of words (R53). -/
def digitsValue (ds : List Word) : Nat :=
  match ds with
  | [] => 0
  | d :: rest => d.toNat + 2 ^ Config.digitBits * digitsValue rest

/-- The digits of a digit vector, least significant first (R53). -/
def vecDigits (msdFirst : Bool) (m : Memory) (r : Region) : List Word :=
  (List.range r.len).map (fun i => memWord m (r.base + digitPos msdFirst r.len i))

/-- `vec(a, n)` (R53). -/
def vecValue (msdFirst : Bool) (m : Memory) (r : Region) : Nat := digitsValue (vecDigits msdFirst m r)

/-- `vecput(a, n, v)` (R53). -/
def vecPut (msdFirst : Bool) (m : Memory) (r : Region) (v : Nat) : Memory :=
  (List.range r.len).foldl
    (fun m i => memInsert m (r.base + digitPos msdFirst r.len i) (BitVec.ofNat 32 (v / 2 ^ (Config.digitBits * i)))) m

/-- Every word of a region takes a fresh free value (45_vdivl.md R206, log 6). -/
def State.scribble (s : State) (r : Region) : State :=
  { s with
    mem := (List.range r.len).foldl (fun m j => memInsert m (r.base + j) (Config.scratchWord (s.draws + j))) s.mem
    draws := s.draws + r.len }

/-! ### Registers and completion (10_state.md R22, R36) -/

/-- `x[r] <- v` (R11). -/
def State.setReg (s : State) (r : Reg) (v : Dword) : State := { s with regs := s.regs.set r.toNat v r.isLt }

/-- The register writes of an instruction, in order. -/
def State.writeRegs (s : State) (ws : List RegWrite) : State :=
  match ws with
  | [] => s
  | w :: rest => (s.setReg w.1 w.2).writeRegs rest

/-- `CC <- (CC + 1) mod 2^32` (R22). -/
def State.stepCC (s : State) : State := { s with cc := s.cc + 1 }

/-- Outcome A of R36: the register writes, then the CC step. -/
def State.complete (s : State) (ws : List RegWrite) : State := (s.writeRegs ws).stepCC

/-- Append an event to EV (R32). -/
def State.log (s : State) (e : Event) : State := { s with ev := s.ev ++ [e] }

/-! ### Policy stack (10_state.md R24) -/

/-- The current record `PS[PSP]` (R24). -/
def State.current (s : State) : PolicyRecord := s.ps[s.psp]

/-- `PS[PSP] <- record` (R101). -/
def State.setCurrent (s : State) (r : PolicyRecord) : State := { s with ps := s.ps.set s.psp.val r s.psp.isLt }

/-! ### The fatal procedure and the report dispatch -/

/-- The instruction goes on where the procedure it called returned (R13). -/
def Ended.andThen (e : Ended) (k : State → Result) : Result :=
  match e with
  | .returned s => k s
  | .stopped o => o

/-- The causes test mode suppresses in the fatal procedure (60_exceptions.md R232, 90_conflicts.md C2). -/
def Cause.suppressible (c : Cause) : Bool :=
  match c with
  | .none => false
  | .terminate => false
  | .divZero => true
  | .shiftRange => true
  | .badAction => false
  | .pstackOvf => false
  | .illegal => false
  | .memFault => false
  | .cbAbort => false

/-- Entry to HALTED: the halt-status registers and the run state; nothing else changes (R30, R232). -/
def State.enterHalted (s : State) (cause : Cause) (ec : Code) (opc : Opc) : State :=
  { s with hcause := cause, hcc := s.cc, hop := opc, hec := ec, runState := .halted }

/-- The halting end of the fatal procedure, for every cause but CBABORT: the message, then HALTED (R232, R238). -/
def State.halt (s : State) (cause : Cause) (ec : Code) (opc : Opc) : State :=
  (s.log (.msg cause s.cc opc ec true)).enterHalted cause ec opc

/-- `Fatal(cause, ec)`, called by an instruction with opcode `opc` (R232): TAKING AN EXCEPTION. -/
def fatal (cause : Cause) (ec : Code) (opc : Opc) (s : State) : Ended :=
  if s.tm && Cause.suppressible cause then .returned (s.log (.msg cause s.cc opc ec false))
  else .stopped (.next (s.halt cause ec opc))

/-- An always-fatal condition: the fatal procedure and, where it returns, the sentinel 0 in every destination
register (R234). -/
def fatalOrSentinel (cause : Cause) (ec : Code) (opc : Opc) (dests : List Reg) (s : State) : Result :=
  (fatal cause ec opc s).andThen (fun s' => .next (s'.complete (dests.map (fun r => (r, 0)))))

/-- The action Terminate (40_policy.md R112). -/
def terminateAction (code : Code) (opc : Opc) (s : State) : Ended :=
  if s.tm then .returned (s.log (.msg .terminate s.cc opc code false)) else fatal .terminate code opc s

/-- The address of a counter: `res + code`, no wrap (R110). -/
def counterAddress (res : Handle) (code : Code) : Nat := res.toNat + code.toNat

/-- The action Count (R110). -/
def countAction (res : Handle) (code : Code) (opc : Opc) (s : State) : Ended :=
  if s.validAddress (counterAddress res code) then
    .returned (s.writeWord (counterAddress res code) (s.readWord (counterAddress res code) + 1))
  else fatal .memFault code opc s

/-- The action SetFlag (R111). -/
def setFlagAction (res : Handle) (code : Code) (opc : Opc) (s : State) : Ended :=
  if Config.flagBits ≤ code.toNat then .stopped (.refused .setFlagCode)
  else if s.validAddress res.toNat then
    .returned (s.writeWord res.toNat (s.readWord res.toNat ||| (1#32 <<< code.toNat)))
  else fatal .memFault code opc s

/-- The action Callback (R113): the event, the pending writes, CBWAIT. -/
def callbackAction (res : Handle) (code : Code) (opc : Opc) (writes : List RegWrite) (s : State) : Ended :=
  .stopped (.next
    { s.log (.callback res s.cc opc code) with
      pend := some { opc := opc, code := code, writes := writes }, runState := .cbwait })

/-- The action a report resolves to; none where the override needs a resource of another kind than the current
record's (R100, U5). -/
def resolveAction (override : Option Action) (cur : PolicyRecord) : Option Action :=
  match override with
  | none => some cur.act
  | some a => if a = .terminate ∨ a = cur.act then some a else none

/-- `Report(code, sel)`, called by an instruction with opcode `opc` that will make `writes` if control returns (R100). -/
def report (code : Code) (override : Option Action) (opc : Opc) (writes : List RegWrite) (s : State) : Ended :=
  match resolveAction override s.current with
  | none => .stopped (.refused .overrideKind)
  | some .terminate => terminateAction code opc s
  | some .count => countAction s.current.res code opc s
  | some .setFlag => setFlagAction s.current.res code opc s
  | some .callback => callbackAction s.current.res code opc writes s

/-- Report, then completion with the substituted result where Report returns (R109). -/
def reportThenComplete (code : Code) (override : Option Action) (opc : Opc) (writes : List RegWrite) (s : State) :
    Result :=
  (report code override opc writes s).andThen (fun s' => .next (s'.complete writes))

/-- `Finish` at a checked level (R109): `plain` are the writes without overflow, `satv` those with one. -/
def finishChecked (c : Checked) (ovf : Bool) (opc : Opc) (plain satv : List RegWrite) (s : State) : Result :=
  if ovf then reportThenComplete (s.checkedCode c) (checkedOverride c) opc satv s
  else .next (s.complete plain)

/-- `Finish(ovf, plain, satv)` (R109): at level U there is no overflow test. -/
def finish (l : Level) (ovf : Bool) (opc : Opc) (plain satv : List RegWrite) (s : State) : Result :=
  match l with
  | .unchecked => .next (s.complete plain)
  | .checked c => finishChecked c ovf opc plain satv s

/-- Steps (2) to (4) of R120: the true result `n` of type T, wrapped at level U, reported and saturated by its sign
where it is out of range at a checked level. -/
def finishValue (t : Ty) (l : Level) (opc : Opc) (rd : Reg) (n : Int) (s : State) : Result :=
  finish l (!t.inRange n) opc [(rd, t.wrapped n)] [(rd, t.saturated (decide (n < 0)))] s

/-! ### Return from a callback, and reset -/

/-- `CallbackReply(resume)` of a pending instruction (60_exceptions.md R239). -/
def State.resume (s : State) (p : Pending) : State := { s.complete p.writes with pend := none, runState := .run }

/-- `CallbackReply(abort)` of a pending instruction (R239): HALTED with cause CBABORT and no message. -/
def State.abort (s : State) (p : Pending) : State := { s.enterHalted .cbAbort p.code p.opc with pend := none }

/-- The transaction Reset (70_reset_and_hazards.md R270): M is not changed, and neither are the parameters of the
instance and the model's own fields (log 14). -/
def State.resetUnit (s : State) : State :=
  { State.reset with mem := s.mem, params := s.params, input := s.input, replies := s.replies, draws := s.draws }

end Sys2Proof.Machine
end

