-- ==== Sys2Proof/Machine/Divide.lean ====
section
/-! DEFINITION. The fixed-width dividers: DIVM, DIVR, DIVSR (44_divide.md). -/

namespace Sys2Proof.Machine

/-- The destination registers of DIVM: the quotient and, with `wr` = 1, the remainder (R181). -/
def divmDests (rd : Reg) (re : Option Reg) : List Reg :=
  match re with
  | none => [rd]
  | some r => [rd, r]

/-- The writes of DIVM: the quotient's contents and, with `wr` = 1, the remainder's (R181). -/
def divmWrites (rd : Reg) (re : Option Reg) (q r : Dword) : List RegWrite :=
  match re with
  | none => [(rd, q)]
  | some x => [(rd, q), (x, r)]

/-- DIVM of type T (R181): truncating division; the remainder written is the true one, also on overflow. -/
def divmTyped (t : Ty) (c : Checked) (rd : Reg) (re : Option Reg) (ra rb : Reg) (s : State) : Result :=
  let n := s.dividend t ra
  let d := s.source t rb
  if d = 0 then fatalOrSentinel .divZero (s.checkedCode c) 0x40#8 (divmDests rd re) s
  else
    let q := n.tdiv d
    let r := t.wrapped (n - q * d)
    finishChecked c (decide (t.quotientLimit * d.natAbs ≤ n.natAbs)) 0x40#8
      (divmWrites rd re (t.wrapped q) r) (divmWrites rd re (t.saturated (oppositeSigns n d)) r) s

/-- The magnitude of a quotient rounded to nearest, ties away from zero (R182): `floor((abs(n) + floor(abs(d)/2)) / abs(d))`. -/
def roundedMagnitude (n d : Int) : Nat := (n.natAbs + d.natAbs / 2) / d.natAbs

/-- A quotient of a magnitude, with the sign of `n * d` (R182). -/
def signedQuotient (n d : Int) (qm : Nat) : Int := if oppositeSigns n d then -(qm : Int) else (qm : Int)

/-- DIVR of type T (R182): a zero divisor gives 0 with no error. -/
def divrTyped (t : Ty) (c : Checked) (rd ra rb : Reg) (s : State) : Result :=
  let n := s.dividend t ra
  let d := s.source t rb
  if d = 0 then .next (s.complete [(rd, 0)])
  else
    let qm := roundedMagnitude n d
    finishChecked c (decide (t.quotientLimit ≤ qm)) 0x41#8
      [(rd, t.wrapped (signedQuotient n d qm))] [(rd, t.saturated (oppositeSigns n d))] s

/-- The dividend of DIVSR scaled by a power of two: left, or right with floor (R183). -/
def scaleDividend (n scale : Int) : Int := if 0 ≤ scale then n * 2 ^ scale.toNat else n / 2 ^ (-scale).toNat

/-- DIVSR of type T (R183): scale range, then zero divisor, then overflow of the scaling or of the quotient, which is
reported once. -/
def divsrTyped (t : Ty) (c : Checked) (rd ra rb rc : Reg) (s : State) : Result :=
  let n := s.dividend t ra
  let d := s.source t rb
  let k := s.amount rc
  if ¬(-64 < k ∧ k < 64) then fatalOrSentinel .shiftRange (s.checkedCode c) 0x42#8 [rd] s
  else if d = 0 then fatalOrSentinel .divZero (s.checkedCode c) 0x42#8 [rd] s
  else
    let n2 := scaleDividend n k
    let qm := roundedMagnitude n2 d
    finishChecked c (!fitsDividend t.signed n2 || decide (t.quotientLimit ≤ qm)) 0x42#8
      [(rd, t.wrapped (signedQuotient n2 d qm))] [(rd, t.saturated (oppositeSigns n d))] s

/-- DIVM.S32 (R181). -/
def execDivmS32 (c : Checked) (rd : Reg) (re : Option Reg) (ra rb : Reg) (s : State) : Result :=
  divmTyped .s32 c rd re ra rb s

/-- DIVM.U32 (R181). -/
def execDivmU32 (c : Checked) (rd : Reg) (re : Option Reg) (ra rb : Reg) (s : State) : Result :=
  divmTyped .u32 c rd re ra rb s

/-- DIVM.S64 (R181). -/
def execDivmS64 (c : Checked) (rd : Reg) (re : Option Reg) (ra rb : Reg) (s : State) : Result :=
  divmTyped .s64 c rd re ra rb s

/-- DIVM.U64 (R181). -/
def execDivmU64 (c : Checked) (rd : Reg) (re : Option Reg) (ra rb : Reg) (s : State) : Result :=
  divmTyped .u64 c rd re ra rb s

/-- DIVR.S32 (R182). -/
def execDivrS32 (c : Checked) (rd ra rb : Reg) (s : State) : Result :=
  divrTyped .s32 c rd ra rb s

/-- DIVR.U32 (R182). -/
def execDivrU32 (c : Checked) (rd ra rb : Reg) (s : State) : Result :=
  divrTyped .u32 c rd ra rb s

/-- DIVR.S64 (R182). -/
def execDivrS64 (c : Checked) (rd ra rb : Reg) (s : State) : Result :=
  divrTyped .s64 c rd ra rb s

/-- DIVR.U64 (R182). -/
def execDivrU64 (c : Checked) (rd ra rb : Reg) (s : State) : Result :=
  divrTyped .u64 c rd ra rb s

/-- DIVSR.S32 (R183). -/
def execDivsrS32 (c : Checked) (rd ra rb rc : Reg) (s : State) : Result :=
  divsrTyped .s32 c rd ra rb rc s

/-- DIVSR.U32 (R183). -/
def execDivsrU32 (c : Checked) (rd ra rb rc : Reg) (s : State) : Result :=
  divsrTyped .u32 c rd ra rb rc s

/-- DIVSR.S64 (R183). -/
def execDivsrS64 (c : Checked) (rd ra rb rc : Reg) (s : State) : Result :=
  divsrTyped .s64 c rd ra rb rc s

/-- DIVSR.U64 (R183). -/
def execDivsrU64 (c : Checked) (rd ra rb rc : Reg) (s : State) : Result :=
  divsrTyped .u64 c rd ra rb rc s

end Sys2Proof.Machine
end

