-- ==== Sys2Proof/Machine/Shift.lean ====
section
/-! DEFINITION. The barrel shifters: SHL, SHR, SHRR (42_shift.md). The amount is never masked: outside its range it is SHIFTRANGE, at every level. -/

namespace Sys2Proof.Machine

/-- The range test of R140 (with P in place of N: R160), then the rest of the instruction on the amount. -/
def withAmount (n : Int) (limit : Nat) (ec : Code) (opc : Opc) (rd : Reg) (s : State) (k : Nat → Result) : Result :=
  if 0 ≤ n ∧ n < (limit : Int) then k n.toNat else fatalOrSentinel .shiftRange ec opc [rd] s

/-- SHL of type T (R141): `t = a * 2^s`, saturated by the sign of the operand. -/
def shlTyped (t : Ty) (l : Level) (rd ra rb : Reg) (s : State) : Result :=
  withAmount (s.amount rb) t.width (s.levelCode l) 0x20#8 rd s fun k =>
    finish l (!t.inRange (s.source t ra * 2 ^ k)) 0x20#8 [(rd, t.wrapped (s.source t ra * 2 ^ k))]
      [(rd, t.saturated (decide (s.source t ra < 0)))] s

/-- SHR of type T (R142): `floor(a / 2^s)`. -/
def shrTyped (t : Ty) (rd ra rb : Reg) (s : State) : Result :=
  withAmount (s.amount rb) t.width 0 0x21#8 rd s fun k =>
    .next (s.complete [(rd, t.wrapped (s.source t ra / 2 ^ k))])

/-- `floor((n + 2^(k-1)) / 2^k)`, and `n` itself for `k` = 0 (R143, R163): unbounded, ties toward plus infinity. -/
def roundShift (n : Int) (k : Nat) : Int := if k = 0 then n else (n + 2 ^ (k - 1)) / 2 ^ k

/-- SHRR of type T (R143). -/
def shrrTyped (t : Ty) (rd ra rb : Reg) (s : State) : Result :=
  withAmount (s.amount rb) t.width 0 0x22#8 rd s fun k =>
    .next (s.complete [(rd, t.wrapped (roundShift (s.source t ra) k))])

/-- SHL.S32 (R141). -/
def execShlS32 (l : Level) (rd ra rb : Reg) (s : State) : Result :=
  shlTyped .s32 l rd ra rb s

/-- SHL.U32 (R141). -/
def execShlU32 (l : Level) (rd ra rb : Reg) (s : State) : Result :=
  shlTyped .u32 l rd ra rb s

/-- SHL.S64 (R141). -/
def execShlS64 (l : Level) (rd ra rb : Reg) (s : State) : Result :=
  shlTyped .s64 l rd ra rb s

/-- SHL.U64 (R141). -/
def execShlU64 (l : Level) (rd ra rb : Reg) (s : State) : Result :=
  shlTyped .u64 l rd ra rb s

/-- SHR.S32 (R142). -/
def execShrS32 (rd ra rb : Reg) (s : State) : Result :=
  shrTyped .s32 rd ra rb s

/-- SHR.U32 (R142). -/
def execShrU32 (rd ra rb : Reg) (s : State) : Result :=
  shrTyped .u32 rd ra rb s

/-- SHR.S64 (R142). -/
def execShrS64 (rd ra rb : Reg) (s : State) : Result :=
  shrTyped .s64 rd ra rb s

/-- SHR.U64 (R142). -/
def execShrU64 (rd ra rb : Reg) (s : State) : Result :=
  shrTyped .u64 rd ra rb s

/-- SHRR.S32 (R143). -/
def execShrrS32 (rd ra rb : Reg) (s : State) : Result :=
  shrrTyped .s32 rd ra rb s

/-- SHRR.U32 (R143). -/
def execShrrU32 (rd ra rb : Reg) (s : State) : Result :=
  shrrTyped .u32 rd ra rb s

/-- SHRR.S64 (R143). -/
def execShrrS64 (rd ra rb : Reg) (s : State) : Result :=
  shrrTyped .s64 rd ra rb s

/-- SHRR.U64 (R143). -/
def execShrrU64 (rd ra rb : Reg) (s : State) : Result :=
  shrrTyped .u64 rd ra rb s

end Sys2Proof.Machine
end

