-- ==== Sys2Proof/Machine/Multiply.lean ====
section
/-! DEFINITION. The multiplier and scale-shift pipeline: MULW, MS, MSR (43_multiply.md). -/

namespace Sys2Proof.Machine

/-- MULW of a 32-bit type (R161): the exact product, all 64 bits of `x[rd]`. -/
def mulwTyped (t : Ty) (rd ra rb : Reg) (s : State) : Result :=
  .next (s.complete [(rd, BitVec.ofInt 64 (s.source t ra * s.source t rb))])

/-- The exact product of MS and MSR (R160). -/
def State.product (s : State) (t : Ty) (ra rb : Reg) : Int := s.source t ra * s.multiplier t rb

/-- MS of type T (R162): the product scaled by `floor(p / 2^s)` and narrowed. -/
def msTyped (t : Ty) (l : Level) (rd ra rb rc : Reg) (s : State) : Result :=
  withAmount (s.amount rc) (t.width + 32) (s.levelCode l) 0x31#8 rd s fun k =>
    finishValue t l 0x31#8 rd (s.product t ra rb / 2 ^ k) s

/-- MSR of type T (R163): as MS, with `2^(s-1)` added before the shift. -/
def msrTyped (t : Ty) (l : Level) (rd ra rb rc : Reg) (s : State) : Result :=
  withAmount (s.amount rc) (t.width + 32) (s.levelCode l) 0x32#8 rd s fun k =>
    finishValue t l 0x32#8 rd (roundShift (s.product t ra rb) k) s

/-- MULW.S32 (R161). -/
def execMulwS32 (rd ra rb : Reg) (s : State) : Result :=
  mulwTyped .s32 rd ra rb s

/-- MULW.U32 (R161). -/
def execMulwU32 (rd ra rb : Reg) (s : State) : Result :=
  mulwTyped .u32 rd ra rb s

/-- MS.S32 (R162). -/
def execMsS32 (l : Level) (rd ra rb rc : Reg) (s : State) : Result :=
  msTyped .s32 l rd ra rb rc s

/-- MS.U32 (R162). -/
def execMsU32 (l : Level) (rd ra rb rc : Reg) (s : State) : Result :=
  msTyped .u32 l rd ra rb rc s

/-- MS.S64 (R162). -/
def execMsS64 (l : Level) (rd ra rb rc : Reg) (s : State) : Result :=
  msTyped .s64 l rd ra rb rc s

/-- MS.U64 (R162). -/
def execMsU64 (l : Level) (rd ra rb rc : Reg) (s : State) : Result :=
  msTyped .u64 l rd ra rb rc s

/-- MSR.S32 (R163). -/
def execMsrS32 (l : Level) (rd ra rb rc : Reg) (s : State) : Result :=
  msrTyped .s32 l rd ra rb rc s

/-- MSR.U32 (R163). -/
def execMsrU32 (l : Level) (rd ra rb rc : Reg) (s : State) : Result :=
  msrTyped .u32 l rd ra rb rc s

/-- MSR.S64 (R163). -/
def execMsrS64 (l : Level) (rd ra rb rc : Reg) (s : State) : Result :=
  msrTyped .s64 l rd ra rb rc s

/-- MSR.U64 (R163). -/
def execMsrU64 (l : Level) (rd ra rb rc : Reg) (s : State) : Result :=
  msrTyped .u64 l rd ra rb rc s

end Sys2Proof.Machine
end

