-- ==== Sys2Proof/Machine/Policy.lean ====
section
/-! DEFINITION. The policy instructions PSET, PPUSH, PPOP, SDEC, REPORT, TMSET, TMGET (40_policy.md R101 to R107). -/

namespace Sys2Proof.Machine

/-- PSET (R101): BADACTION is tested before the record is written. -/
def execPset (act : BitVec 4) (ra : Reg) (s : State) : Result :=
  match actionOf act with
  | none => (fatal .badAction 0 0x01#8 s).andThen (fun s' => .next s')
  | some a => .next (s.setCurrent { act := a, res := s.handle ra }).stepCC

/-- The stack after PPUSH where a record is free: the current record is duplicated, PSP moves up, and the new current
record is set (R102). -/
def pushRecord (s : State) (r : PolicyRecord) (h : s.psp.val + 1 < Config.psDepth) : State :=
  { s with ps := s.ps.set (s.psp.val + 1) s.current h, psp := ⟨s.psp.val + 1, h⟩ }.setCurrent r

/-- PPUSH (R102): the depth is tested first, then the action, before anything is changed. -/
def execPpush (act : BitVec 4) (ra : Reg) (s : State) : Result :=
  if h : s.psp.val + 1 < Config.psDepth then
    match actionOf act with
    | none => (fatal .badAction 0 0x02#8 s).andThen (fun s' => .next s')
    | some a => .next (pushRecord s { act := a, res := s.handle ra } h).stepCC
  else (fatal .pstackOvf 0 0x02#8 s).andThen (fun s' => .next s')

/-- PPOP (R103): popping past the base changes only CC. -/
def execPpop (s : State) : Result :=
  .next { s with psp := ⟨s.psp.val - 1, Nat.lt_of_le_of_lt (Nat.sub_le _ _) s.psp.isLt⟩ }.stepCC

/-- SDEC (R104). -/
def execSdec (code : Code) (s : State) : Result := .next { s with dec := code }.stepCC

/-- REPORT (R105): it writes no register, so a suspension leaves an empty write list. -/
def execReport (ecf : Ecf) (s : State) : Result := reportThenComplete ecf.code ecf.override 0x05#8 [] s

/-- TMSET (R106). -/
def execTmset (enabled : Bool) (s : State) : Result := .next { s with tm := enabled }.stepCC

/-- TMGET (R107). -/
def execTmget (rd : Reg) (s : State) : Result :=
  .next (s.complete [(rd, if s.tm then 1#64 else 0#64)])

end Sys2Proof.Machine
end

