-- ==== Sys2Proof/Machine/Scalar.lean ====
section
/-! DEFINITION. The scalar arithmetic unit: ADD, SUB, NEG (41_scalar_arith.md). -/

namespace Sys2Proof.Machine

/-- ADD of type T (R121): `t = a + b`. -/
def addTyped (t : Ty) (l : Level) (rd ra rb : Reg) (s : State) : Result :=
  finishValue t l 0x10#8 rd (s.source t ra + s.source t rb) s

/-- SUB of type T (R122): `t = a - b`. -/
def subTyped (t : Ty) (l : Level) (rd ra rb : Reg) (s : State) : Result :=
  finishValue t l 0x11#8 rd (s.source t ra - s.source t rb) s

/-- NEG of type T (R123): `t = -a`. -/
def negTyped (t : Ty) (l : Level) (rd ra : Reg) (s : State) : Result :=
  finishValue t l 0x12#8 rd (-(s.source t ra)) s

/-- ADD.S32 (R121). -/
def execAddS32 (l : Level) (rd ra rb : Reg) (s : State) : Result :=
  addTyped .s32 l rd ra rb s

/-- ADD.U32 (R121). -/
def execAddU32 (l : Level) (rd ra rb : Reg) (s : State) : Result :=
  addTyped .u32 l rd ra rb s

/-- ADD.S64 (R121). -/
def execAddS64 (l : Level) (rd ra rb : Reg) (s : State) : Result :=
  addTyped .s64 l rd ra rb s

/-- ADD.U64 (R121). -/
def execAddU64 (l : Level) (rd ra rb : Reg) (s : State) : Result :=
  addTyped .u64 l rd ra rb s

/-- SUB.S32 (R122). -/
def execSubS32 (l : Level) (rd ra rb : Reg) (s : State) : Result :=
  subTyped .s32 l rd ra rb s

/-- SUB.U32 (R122). -/
def execSubU32 (l : Level) (rd ra rb : Reg) (s : State) : Result :=
  subTyped .u32 l rd ra rb s

/-- SUB.S64 (R122). -/
def execSubS64 (l : Level) (rd ra rb : Reg) (s : State) : Result :=
  subTyped .s64 l rd ra rb s

/-- SUB.U64 (R122). -/
def execSubU64 (l : Level) (rd ra rb : Reg) (s : State) : Result :=
  subTyped .u64 l rd ra rb s

/-- NEG.S32 (R123). -/
def execNegS32 (l : Level) (rd ra : Reg) (s : State) : Result :=
  negTyped .s32 l rd ra s

/-- NEG.S64 (R123). -/
def execNegS64 (l : Level) (rd ra : Reg) (s : State) : Result :=
  negTyped .s64 l rd ra s

end Sys2Proof.Machine
end

