-- ==== Sys2Proof/Machine/Vector.lean ====
section
/-! DEFINITION. The generalized long-division engine: VDIVL (45_vdivl.md), by value (R203). -/

namespace Sys2Proof.Machine

/-- The regions of a VDIVL (R200); the remainder region exists with `wr` = 1 only. -/
structure VdivlRegions where
  x : Region
  y : Region
  q : Region
  r : Option Region
  w : Region
deriving DecidableEq, Repr

/-- The size of the scratch region, `4*nx + 2*ny + 2` (R200). -/
def scratchSize (nx ny : Nat) : Nat := 4 * nx + 2 * ny + 2

/-- R200: the regions that the operand registers describe. -/
def State.vdivlRegions (s : State) (rq rx ry : Reg) (rr : Option Reg) (rw rnx rny : Reg) : VdivlRegions :=
  let nx := s.address rnx
  let ny := s.address rny
  { x := { base := s.address rx, len := nx }
    y := { base := s.address ry, len := ny }
    q := { base := s.address rq, len := nx }
    r := rr.map (fun r => { base := s.address r, len := ny })
    w := { base := s.address rw, len := scratchSize nx ny } }

/-- R201: X, Y, Q, W, and Rm with `wr` = 1, are valid regions. -/
def State.vdivlValid (s : State) (g : VdivlRegions) : Bool :=
  s.validRegion g.x && s.validRegion g.y && s.validRegion g.q && s.validRegion g.w && g.r.all s.validRegion

/-- R202 item 2: an output is disjoint from an input, or is the same region. -/
def outputApart (out inp : Region) : Bool := !out.overlaps inp || out == inp

/-- R202: the arrangements VDIVL is defined for. -/
def VdivlRegions.allowed (g : VdivlRegions) : Bool :=
  outputApart g.q g.x && outputApart g.q g.y
    && g.r.all (fun r => outputApart r g.x && outputApart r g.y && !g.q.overlaps r)
    && !g.w.overlaps g.x && !g.w.overlaps g.y && !g.w.overlaps g.q && g.r.all (fun r => !g.w.overlaps r)

/-- Quotient and remainder of VDIVL (R203): zero where either operand is zero (R204); rounded up where asked and
`2 * Rv >= Yv`, the remainder being that of the unrounded division (R205). -/
def vdivlResult (rnd : Bool) (xv yv : Nat) : Nat × Nat :=
  if xv = 0 ∨ yv = 0 then (0, 0)
  else (if rnd = true ∧ yv ≤ 2 * (xv % yv) then xv / yv + 1 else xv / yv, xv % yv)

/-- What VDIVL writes to M: the scratch words take free values (R206), then all of Q and, with `wr` = 1, all of Rm
(R203, R205). Both inputs are read first. -/
def State.vdivlWrite (s : State) (rnd : Bool) (g : VdivlRegions) : State :=
  let msd := s.params.vecMsdFirst
  let v := vdivlResult rnd (vecValue msd s.mem g.x) (vecValue msd s.mem g.y)
  let s1 := s.scribble g.w
  let s2 := { s1 with mem := vecPut msd s1.mem g.q v.1 }
  match g.r with
  | none => s2
  | some r => { s2 with mem := vecPut msd s2.mem r v.2 }

/-- VDIVL (R203). An invalid region is MEMFAULT whatever overlaps (R201, R236), so only a valid arrangement is refused.
MEMFAULT is not suppressed by test mode: the fatal procedure never returns here (R207, R232). -/
def execVdivl (rnd : Bool) (rq rx ry : Reg) (rr : Option Reg) (rw rnx rny : Reg) (s : State) : Result :=
  let g := s.vdivlRegions rq rx ry rr rw rnx rny
  if !g.allowed && s.vdivlValid g then .refused .vdivlOverlap
  else .next (if s.vdivlValid g then (s.vdivlWrite rnd g).stepCC else s.halt .memFault 0 0x50#8)

end Sys2Proof.Machine
end

