-- ==== Sys2Proof/Machine/Dispatch.lean ====
section
/-! DEFINITION. One arm per constructor of Instr: the meaning of a decoded instruction, executed at a moment when
RUNSTATE = RUN (steps 2 to 4 of 10_state.md R36). -/

namespace Sys2Proof.Machine

def exec (i : Instr) (s : State) : Host.Outcome State Fault Refusal :=
  match i with
  | .pset act ra => Sys2Proof.Machine.execPset act ra s
  | .ppush act ra => Sys2Proof.Machine.execPpush act ra s
  | .ppop => Sys2Proof.Machine.execPpop s
  | .sdec code => Sys2Proof.Machine.execSdec code s
  | .report ecf => Sys2Proof.Machine.execReport ecf s
  | .tmset enabled => Sys2Proof.Machine.execTmset enabled s
  | .tmget rd => Sys2Proof.Machine.execTmget rd s
  | .addS32 l rd ra rb => Sys2Proof.Machine.execAddS32 l rd ra rb s
  | .addU32 l rd ra rb => Sys2Proof.Machine.execAddU32 l rd ra rb s
  | .addS64 l rd ra rb => Sys2Proof.Machine.execAddS64 l rd ra rb s
  | .addU64 l rd ra rb => Sys2Proof.Machine.execAddU64 l rd ra rb s
  | .subS32 l rd ra rb => Sys2Proof.Machine.execSubS32 l rd ra rb s
  | .subU32 l rd ra rb => Sys2Proof.Machine.execSubU32 l rd ra rb s
  | .subS64 l rd ra rb => Sys2Proof.Machine.execSubS64 l rd ra rb s
  | .subU64 l rd ra rb => Sys2Proof.Machine.execSubU64 l rd ra rb s
  | .negS32 l rd ra => Sys2Proof.Machine.execNegS32 l rd ra s
  | .negS64 l rd ra => Sys2Proof.Machine.execNegS64 l rd ra s
  | .shlS32 l rd ra rb => Sys2Proof.Machine.execShlS32 l rd ra rb s
  | .shlU32 l rd ra rb => Sys2Proof.Machine.execShlU32 l rd ra rb s
  | .shlS64 l rd ra rb => Sys2Proof.Machine.execShlS64 l rd ra rb s
  | .shlU64 l rd ra rb => Sys2Proof.Machine.execShlU64 l rd ra rb s
  | .shrS32 rd ra rb => Sys2Proof.Machine.execShrS32 rd ra rb s
  | .shrU32 rd ra rb => Sys2Proof.Machine.execShrU32 rd ra rb s
  | .shrS64 rd ra rb => Sys2Proof.Machine.execShrS64 rd ra rb s
  | .shrU64 rd ra rb => Sys2Proof.Machine.execShrU64 rd ra rb s
  | .shrrS32 rd ra rb => Sys2Proof.Machine.execShrrS32 rd ra rb s
  | .shrrU32 rd ra rb => Sys2Proof.Machine.execShrrU32 rd ra rb s
  | .shrrS64 rd ra rb => Sys2Proof.Machine.execShrrS64 rd ra rb s
  | .shrrU64 rd ra rb => Sys2Proof.Machine.execShrrU64 rd ra rb s
  | .mulwS32 rd ra rb => Sys2Proof.Machine.execMulwS32 rd ra rb s
  | .mulwU32 rd ra rb => Sys2Proof.Machine.execMulwU32 rd ra rb s
  | .msS32 l rd ra rb rc => Sys2Proof.Machine.execMsS32 l rd ra rb rc s
  | .msU32 l rd ra rb rc => Sys2Proof.Machine.execMsU32 l rd ra rb rc s
  | .msS64 l rd ra rb rc => Sys2Proof.Machine.execMsS64 l rd ra rb rc s
  | .msU64 l rd ra rb rc => Sys2Proof.Machine.execMsU64 l rd ra rb rc s
  | .msrS32 l rd ra rb rc => Sys2Proof.Machine.execMsrS32 l rd ra rb rc s
  | .msrU32 l rd ra rb rc => Sys2Proof.Machine.execMsrU32 l rd ra rb rc s
  | .msrS64 l rd ra rb rc => Sys2Proof.Machine.execMsrS64 l rd ra rb rc s
  | .msrU64 l rd ra rb rc => Sys2Proof.Machine.execMsrU64 l rd ra rb rc s
  | .divmS32 c rd re ra rb => Sys2Proof.Machine.execDivmS32 c rd re ra rb s
  | .divmU32 c rd re ra rb => Sys2Proof.Machine.execDivmU32 c rd re ra rb s
  | .divmS64 c rd re ra rb => Sys2Proof.Machine.execDivmS64 c rd re ra rb s
  | .divmU64 c rd re ra rb => Sys2Proof.Machine.execDivmU64 c rd re ra rb s
  | .divrS32 c rd ra rb => Sys2Proof.Machine.execDivrS32 c rd ra rb s
  | .divrU32 c rd ra rb => Sys2Proof.Machine.execDivrU32 c rd ra rb s
  | .divrS64 c rd ra rb => Sys2Proof.Machine.execDivrS64 c rd ra rb s
  | .divrU64 c rd ra rb => Sys2Proof.Machine.execDivrU64 c rd ra rb s
  | .divsrS32 c rd ra rb rc => Sys2Proof.Machine.execDivsrS32 c rd ra rb rc s
  | .divsrU32 c rd ra rb rc => Sys2Proof.Machine.execDivsrU32 c rd ra rb rc s
  | .divsrS64 c rd ra rb rc => Sys2Proof.Machine.execDivsrS64 c rd ra rb rc s
  | .divsrU64 c rd ra rb rc => Sys2Proof.Machine.execDivsrU64 c rd ra rb rc s
  | .vdivl rnd rq rx ry rr rw rnx rny => Sys2Proof.Machine.execVdivl rnd rq rx ry rr rw rnx rny s

end Sys2Proof.Machine
end

