-- ==== Sys2Proof/Machine/Transact.lean ====
section
/-! DEFINITION. The host's transactions (10_state.md R35): what each does to the unit, and the presentation of an instruction word (R36). -/

namespace Sys2Proof.Machine

/-- An illegal instruction word: `Fatal(ILLEGAL, 0)` with HOP the bits 7..0 of the word (30_encoding.md R80,
10_state.md R36 step 1). -/
def illegalWord (w : InstrWord) (s : State) : Result :=
  (fatal .illegal 0 (opcOf w) s).andThen (fun s' => .next s')

/-- `Issue(w)` in RUN: decode, then execute (R36). -/
def issueInRun (w : InstrWord) (s : State) : Result :=
  match decode w with
  | .ok i => exec i s
  | .error _ => illegalWord w s

/-- `Issue(w)` (R35): executed in RUN, ignored in HALTED (60_exceptions.md R235), outside the contract in CBWAIT. -/
def issue (w : InstrWord) (s : State) : Result :=
  match s.runState with
  | .run => issueInRun w s
  | .cbwait => .refused .hostContract
  | .halted => .next s

/-- A transaction allowed in RUN only (R35). -/
def inRun (s : State) (k : Result) : Result :=
  match s.runState with
  | .run => k
  | .cbwait => .refused .hostContract
  | .halted => .refused .hostContract

/-- The answer of a read transaction is appended for the host (R35, log 2). -/
def State.answer (s : State) (r : HostReply) : State := { s with replies := s.replies ++ [r] }

/-- What ReadStatus returns (R35). -/
def State.status (s : State) : Status :=
  { runState := s.runState, cc := s.cc, psp := s.psp, ps := s.ps, dec := s.dec, tm := s.tm, hcause := s.hcause,
    hcc := s.hcc, hop := s.hop, hec := s.hec }

/-- `WriteReg(i, v)` with `i` below 16 (R35). -/
def writeRegTxn (i : Nat) (v : Dword) (s : State) : Result :=
  if i < Config.nReg then .next (s.setReg (BitVec.ofNat 4 i) v) else .refused .hostContract

/-- `ReadReg(i)` with `i` below 16 (R35). -/
def readRegTxn (i : Nat) (s : State) : Result :=
  if i < Config.nReg then .next (s.answer (.reg (s.reg (BitVec.ofNat 4 i)))) else .refused .hostContract

/-- `WriteMem(a, v)` with `a` below MEM_WORDS; any other address is refused (R35, U11, log 11). -/
def writeMemTxn (a : Nat) (v : Word) (s : State) : Result :=
  if s.validAddress a then .next (s.writeWord a v) else .refused (.hostAddress a)

/-- `ReadMem(a)` with `a` below MEM_WORDS; any other address is refused (R35, U11, log 11). -/
def readMemTxn (a : Nat) (s : State) : Result :=
  if s.validAddress a then .next (s.answer (.mem (s.readWord a))) else .refused (.hostAddress a)

/-- What a reply does to the pending instruction (60_exceptions.md R239). -/
def replyTo (r : CallbackAnswer) (p : Pending) (s : State) : State :=
  match r with
  | .resume => s.resume p
  | .abort => s.abort p

/-- `CallbackReply` (R35, R239): in CBWAIT only. -/
def callbackReplyTxn (r : CallbackAnswer) (s : State) : Result :=
  match s.runState with
  | .run => .refused .hostContract
  | .halted => .refused .hostContract
  | .cbwait =>
    match s.pend with
    | none => .fault .nothingPending
    | some p => .next (replyTo r p s)

/-- One transaction of the host (R35). -/
def transact (t : HostTxn) (s : State) : Result :=
  match t with
  | .reset => .next s.resetUnit
  | .writeReg i v => inRun s (writeRegTxn i v s)
  | .readReg i => readRegTxn i s
  | .writeMem a v => inRun s (writeMemTxn a v s)
  | .readMem a => readMemTxn a s
  | .issue w => issue w s
  | .readStatus => .next (s.answer (.status s.status))
  | .readEvents => .next (s.answer (.events s.ev))
  | .callbackReply r => callbackReplyTxn r s

/-- The next transaction of the host is performed; with none the unit is idle, or waits in CBWAIT, and nothing changes
(60_exceptions.md R248, 70_reset_and_hazards.md R276, log 3). -/
def nextTransaction (s : State) : Result :=
  match s.input with
  | [] => .next s
  | t :: rest => transact t { s with input := rest }

/-- The host's next transaction is `Issue` of a word: its bits below `nbits` are those of `w`, every other bit is 0. -/
def presentWord (s : State) (nbits w : Nat) : State :=
  { s with input := .issue (BitVec.ofNat 64 (w % 2 ^ nbits)) :: s.input }

end Sys2Proof.Machine
end

