-- ==== Sys2Proof/Safety.lean ====
section
/-! DEFINITION. The terms claims about the machine are stated in: the invariant of its states, what counts as a safe
run, and short names for the values and final states that the rules of spec/ name. -/

namespace Sys2Proof.Safety

open Sys2Proof.Machine

/-! ### Invariant and safety -/

/-- What holds of every state the machine can be in. -/
structure Inv (s : State) : Prop where
  /-- M is in its canonical form (log 5). -/
  memCanonical : s.mem.wf
  /-- Every listed word lies in M (20_memory.md R50). -/
  memInside : ∀ e ∈ s.mem, e.1 < s.memWords
  /-- PEND is held exactly in CBWAIT (10_state.md R31). -/
  pendInCbwait : s.pend.isSome = true ↔ s.runState = .cbwait
  /-- The write list has 0, 1 or 2 entries (R31). -/
  pendShort : ∀ p, s.pend = some p → p.writes.length ≤ 2
  /-- HCAUSE is 0 exactly while not halted (R30). -/
  causeInHalted : s.hcause ≠ .none ↔ s.runState = .halted
  /-- The other halt-status registers are written on entry to HALTED only (R30, R37). -/
  statusWhileRunning : s.runState ≠ .halted → s.hcc = 0 ∧ s.hop = 0 ∧ s.hec = 0

/-- A safe run: `n` steps, each of which answers a next state, and the unit is never HALTED. -/
def safeFor (n : Nat) (s : State) : Prop :=
  match n with
  | 0 => s.runState ≠ .halted
  | k + 1 => s.runState ≠ .halted ∧ ∃ s', step s = .next s' ∧ safeFor k s'

/-- Instructions executed one after the other, each completing in RUN, with PSP above `p` after every one of them. -/
inductive Above (p : Nat) : State → List Instr → State → Prop where
  | nil (s : State) : Above p s [] s
  | cons (i : Instr) (is : List Instr) (s s1 s2 : State) : exec i s = .next s1 → s1.runState = .run →
      p < s1.psp.val → Above p s1 is s2 → Above p s (i :: is) s2

/-! ### Final states -/

/-- Outcome A of 10_state.md R36 with one destination register. -/
def completed (s : State) (rd : Reg) (v : Dword) : State :=
  { s with regs := s.regs.set rd.toNat v rd.isLt, cc := s.cc + 1 }

/-- Outcome B of R36: what the fatal procedure leaves when it halts (60_exceptions.md R232). -/
def haltedBy (s : State) (cause : Cause) (ec : Code) (opc : Opc) : State :=
  { s with ev := s.ev ++ [.msg cause s.cc opc ec true], hcause := cause, hcc := s.cc, hop := opc, hec := ec, runState := .halted }

/-- A condition that test mode suppresses, with one destination register: HALTED with TM = 0, the message and the
sentinel 0 with TM = 1 (R232, R234). -/
def fatalOutcome (s : State) (cause : Cause) (ec : Code) (opc : Opc) (rd : Reg) : State :=
  if s.tm then completed { s with ev := s.ev ++ [.msg cause s.cc opc ec false] } rd 0 else haltedBy s cause ec opc

/-- The value the last write of a list gives to a register, if one writes it. -/
def lastWrite (ws : List RegWrite) (r : Reg) : Option Dword :=
  match ws with
  | [] => none
  | w :: rest =>
    match lastWrite rest r with
    | some v => some v
    | none => if w.1 = r then some w.2 else none

/-! ### Values of a type (00_scope.md R8), in figures -/

/-- The N-bit pattern of a source of type T. -/
def low (t : Ty) (x : Dword) : BitVec t.width := x.setWidth t.width

/-- The value is representable in T. -/
def representable (t : Ty) (n : Int) : Prop :=
  match t with
  | .s32 => -2147483648 ≤ n ∧ n ≤ 2147483647
  | .u32 => 0 ≤ n ∧ n ≤ 4294967295
  | .s64 => -9223372036854775808 ≤ n ∧ n ≤ 9223372036854775807
  | .u64 => 0 ≤ n ∧ n ≤ 18446744073709551615

/-- The saturated result, as a register holds it: the maximum of T, or for a negative true result the minimum. -/
def saturation (t : Ty) (neg : Bool) : Dword :=
  match t, neg with
  | .s32, false => 0x000000007FFFFFFF
  | .s32, true => 0x0000000080000000
  | .u32, false => 0x00000000FFFFFFFF
  | .u32, true => 0
  | .s64, false => 0x7FFFFFFFFFFFFFFF
  | .s64, true => 0x8000000000000000
  | .u64, false => 0xFFFFFFFFFFFFFFFF
  | .u64, true => 0

/-- `LIM` (44_divide.md R184). -/
def limit (t : Ty) : Nat :=
  match t with
  | .s32 => 2147483648
  | .u32 => 4294967296
  | .s64 => 9223372036854775808
  | .u64 => 18446744073709551616

/-- The register image of the wrapped value. -/
def image (t : Ty) (n : Int) : Dword := (BitVec.ofInt t.width n).setWidth 64

/-- Overflow of an addition: the sign test for signed types, a carry out for unsigned ones (41_scalar_arith.md R121). -/
def addOverflows (t : Ty) (a b : BitVec t.width) : Prop :=
  if t.signed then a.msb = b.msb ∧ (a + b).msb ≠ a.msb else 2 ^ t.width ≤ a.toNat + b.toNat

/-- Overflow of a subtraction: the sign test for signed types, a borrow for unsigned ones (R122). -/
def subOverflows (t : Ty) (a b : BitVec t.width) : Prop :=
  if t.signed then a.msb ≠ b.msb ∧ (a - b).msb ≠ a.msb else a.toNat < b.toNat

/-- Overflow of a left shift by the bits shifted out (42_shift.md R146): for an unsigned type one of the top `k` bits
is set; for a signed type the top `k + 1` bits are not all equal. -/
def shlOverflows (t : Ty) (p : BitVec t.width) (k : Nat) : Prop :=
  0 < k ∧
    if t.signed then
      ∃ i, t.width - 1 - k ≤ i ∧ i ≤ t.width - 1 ∧ p.getLsbD i ≠ p.getLsbD (t.width - 1)
    else ∃ i, t.width - k ≤ i ∧ i ≤ t.width - 1 ∧ p.getLsbD i = true

/-- The shift right of a type: arithmetic for signed, logical for unsigned (R142). -/
def shiftedRight (t : Ty) (p : BitVec t.width) (k : Nat) : BitVec t.width :=
  if t.signed then p.sshiftRight k else p >>> k

/-- The `act` field of an action kind (10_state.md R25). -/
def actField (a : Action) : BitVec 4 :=
  match a with
  | .terminate => 0
  | .count => 1
  | .setFlag => 2
  | .callback => 3

/-! ### Reports (40_policy.md R100) -/

/-- The report resolves to the action `a`: no override and the current record is of that kind, or an override to `a`
that is Terminate or the current record's own kind. -/
def resolvesTo (s : State) (o : Option Action) (a : Action) : Prop :=
  (o = none ∧ s.current.act = a) ∨ (o = some a ∧ (a = .terminate ∨ s.current.act = a))

/-! ### Illegal words (30_encoding.md R79, R80), by bit positions -/

/-- Format P: a must-be-zero bit, an unused field, a selector or a mode out of range. -/
def illegalP (w : InstrWord) : Prop :=
  w.extractLsb' 20 12 ≠ 0 ∨ w.extractLsb' 59 5 ≠ 0
  ∨ ((opcOf w = 0x01 ∨ opcOf w = 0x02) ∧ (w.extractLsb' 12 4 ≠ 0 ∨ w.extractLsb' 32 27 ≠ 0))
  ∨ (opcOf w = 0x03 ∧ (w.extractLsb' 8 12 ≠ 0 ∨ w.extractLsb' 32 27 ≠ 0))
  ∨ (opcOf w = 0x04 ∧ (w.extractLsb' 8 12 ≠ 0 ∨ w.extractLsb' 56 3 ≠ 0))
  ∨ (opcOf w = 0x05 ∧ (w.extractLsb' 8 12 ≠ 0 ∨ 4 < (w.extractLsb' 56 3).toNat))
  ∨ (opcOf w = 0x06 ∧ (w.extractLsb' 12 8 ≠ 0 ∨ w.extractLsb' 32 27 ≠ 0 ∨ 1 < (w.extractLsb' 8 4).toNat))
  ∨ (opcOf w = 0x07 ∧ (w.extractLsb' 8 4 ≠ 0 ∨ w.extractLsb' 16 4 ≠ 0 ∨ w.extractLsb' 32 27 ≠ 0))

/-- Format A: the same by the columns of R79. Bits 8 `U`, 9 `D`, 11..10 `chk`, 27..24 `rc`, 31..28 `re`, 55..32 `code`,
58..56 `sel`, 59 `wr`. -/
def illegalA (w : InstrWord) : Prop :=
  w.extractLsb' 60 4 ≠ 0
  ∨ w.extractLsb' 10 2 = 3
  ∨ 4 < (w.extractLsb' 56 3).toNat
  ∨ (w.extractLsb' 10 2 ≠ 1 ∧ w.extractLsb' 32 27 ≠ 0)
  ∨ ((opcOf w = 0x21 ∨ opcOf w = 0x22 ∨ opcOf w = 0x30) ∧ w.extractLsb' 10 2 ≠ 0)
  ∨ ((opcOf w = 0x40 ∨ opcOf w = 0x41 ∨ opcOf w = 0x42) ∧ w.extractLsb' 10 2 = 0)
  ∨ (opcOf w = 0x12 ∧ (w.extractLsb' 8 1 ≠ 0 ∨ w.extractLsb' 20 4 ≠ 0))
  ∨ (opcOf w = 0x30 ∧ w.extractLsb' 9 1 ≠ 0)
  ∨ (opcOf w ≠ 0x31 ∧ opcOf w ≠ 0x32 ∧ opcOf w ≠ 0x42 ∧ w.extractLsb' 24 4 ≠ 0)
  ∨ (opcOf w ≠ 0x40 ∧ (w.extractLsb' 28 4 ≠ 0 ∨ w.extractLsb' 59 1 ≠ 0))
  ∨ (opcOf w = 0x40 ∧ w.extractLsb' 59 1 = 0 ∧ w.extractLsb' 28 4 ≠ 0)
  ∨ (opcOf w = 0x40 ∧ w.extractLsb' 59 1 = 1 ∧ w.extractLsb' 28 4 = w.extractLsb' 12 4)

/-- Format V: a must-be-zero bit, or `rr` named without `wr`. -/
def illegalV (w : InstrWord) : Prop :=
  w.extractLsb' 10 2 ≠ 0 ∨ w.extractLsb' 40 24 ≠ 0 ∨ (w.extractLsb' 9 1 = 0 ∧ w.extractLsb' 24 4 ≠ 0)

/-- The opcodes of Format P. -/
def opcodesP : List Opc := [0x01, 0x02, 0x03, 0x04, 0x05, 0x06, 0x07]

/-- The opcodes of Format A. -/
def opcodesA : List Opc := [0x10, 0x11, 0x12, 0x20, 0x21, 0x22, 0x30, 0x31, 0x32, 0x40, 0x41, 0x42]

/-- R80: the word is an illegal instruction. -/
def illegalInstruction (w : InstrWord) : Prop :=
  (opcOf w ∉ opcodesP ∧ opcOf w ∉ opcodesA ∧ opcOf w ≠ 0x50)
  ∨ (opcOf w ∈ opcodesP ∧ illegalP w) ∨ (opcOf w ∈ opcodesA ∧ illegalA w) ∨ (opcOf w = 0x50 ∧ illegalV w)

/-! ### Regions of a VDIVL (45_vdivl.md R200 to R202) -/

/-- The address lies in the region. -/
def inside (r : Region) (a : Nat) : Prop := r.base ≤ a ∧ a < r.base + r.len

/-- The two regions share a word. -/
def shareWord (r q : Region) : Prop := ∃ a, inside r a ∧ inside q a

/-- R202 item 2 for one output and one input. -/
def disjointOrSame (out inp : Region) : Prop := ¬shareWord out inp ∨ out = inp

/-- R202: the arrangement is one VDIVL is defined for. -/
def arrangement (g : VdivlRegions) : Prop :=
  disjointOrSame g.q g.x ∧ disjointOrSame g.q g.y
  ∧ (∀ r, g.r = some r → disjointOrSame r g.x ∧ disjointOrSame r g.y ∧ ¬shareWord g.q r ∧ ¬shareWord g.w r)
  ∧ ¬shareWord g.w g.x ∧ ¬shareWord g.w g.y ∧ ¬shareWord g.w g.q

/-- R201: every region VDIVL uses ends inside M. -/
def regionsInside (s : State) (g : VdivlRegions) : Prop :=
  g.x.base + g.x.len ≤ s.memWords ∧ g.y.base + g.y.len ≤ s.memWords ∧ g.q.base + g.q.len ≤ s.memWords
  ∧ g.w.base + g.w.len ≤ s.memWords ∧ ∀ r, g.r = some r → r.base + r.len ≤ s.memWords

/-! ### What an instruction may write (frames) -/

/-- The destination registers of an instruction (30_encoding.md R83). -/
def destinations (i : Instr) : List Reg :=
  match i with
  | .pset _ _ => []
  | .ppush _ _ => []
  | .ppop => []
  | .sdec _ => []
  | .report _ => []
  | .tmset _ => []
  | .tmget rd => [rd]
  | .addS32 _ rd _ _ => [rd]
  | .addU32 _ rd _ _ => [rd]
  | .addS64 _ rd _ _ => [rd]
  | .addU64 _ rd _ _ => [rd]
  | .subS32 _ rd _ _ => [rd]
  | .subU32 _ rd _ _ => [rd]
  | .subS64 _ rd _ _ => [rd]
  | .subU64 _ rd _ _ => [rd]
  | .negS32 _ rd _ => [rd]
  | .negS64 _ rd _ => [rd]
  | .shlS32 _ rd _ _ => [rd]
  | .shlU32 _ rd _ _ => [rd]
  | .shlS64 _ rd _ _ => [rd]
  | .shlU64 _ rd _ _ => [rd]
  | .shrS32 rd _ _ => [rd]
  | .shrU32 rd _ _ => [rd]
  | .shrS64 rd _ _ => [rd]
  | .shrU64 rd _ _ => [rd]
  | .shrrS32 rd _ _ => [rd]
  | .shrrU32 rd _ _ => [rd]
  | .shrrS64 rd _ _ => [rd]
  | .shrrU64 rd _ _ => [rd]
  | .mulwS32 rd _ _ => [rd]
  | .mulwU32 rd _ _ => [rd]
  | .msS32 _ rd _ _ _ => [rd]
  | .msU32 _ rd _ _ _ => [rd]
  | .msS64 _ rd _ _ _ => [rd]
  | .msU64 _ rd _ _ _ => [rd]
  | .msrS32 _ rd _ _ _ => [rd]
  | .msrU32 _ rd _ _ _ => [rd]
  | .msrS64 _ rd _ _ _ => [rd]
  | .msrU64 _ rd _ _ _ => [rd]
  | .divmS32 _ rd re _ _ => divmDests rd re
  | .divmU32 _ rd re _ _ => divmDests rd re
  | .divmS64 _ rd re _ _ => divmDests rd re
  | .divmU64 _ rd re _ _ => divmDests rd re
  | .divrS32 _ rd _ _ => [rd]
  | .divrU32 _ rd _ _ => [rd]
  | .divrS64 _ rd _ _ => [rd]
  | .divrU64 _ rd _ _ => [rd]
  | .divsrS32 _ rd _ _ _ => [rd]
  | .divsrU32 _ rd _ _ _ => [rd]
  | .divsrS64 _ rd _ _ _ => [rd]
  | .divsrU64 _ rd _ _ _ => [rd]
  | .vdivl _ _ _ _ _ _ _ _ => []

/-- The checked level of an exposure level, if it is one (R75). -/
def levelChecked (l : Level) : Option Checked :=
  match l with
  | .unchecked => none
  | .checked c => some c

/-- The checked level at which an instruction may report, if it runs at one (R79); REPORT carries an error-code field as
a checked-explicit instruction does (40_policy.md R105). -/
def reportingLevel (i : Instr) : Option Checked :=
  match i with
  | .pset _ _ => none
  | .ppush _ _ => none
  | .ppop => none
  | .sdec _ => none
  | .report ecf => some (.explicit ecf)
  | .tmset _ => none
  | .tmget _ => none
  | .addS32 l _ _ _ => levelChecked l
  | .addU32 l _ _ _ => levelChecked l
  | .addS64 l _ _ _ => levelChecked l
  | .addU64 l _ _ _ => levelChecked l
  | .subS32 l _ _ _ => levelChecked l
  | .subU32 l _ _ _ => levelChecked l
  | .subS64 l _ _ _ => levelChecked l
  | .subU64 l _ _ _ => levelChecked l
  | .negS32 l _ _ => levelChecked l
  | .negS64 l _ _ => levelChecked l
  | .shlS32 l _ _ _ => levelChecked l
  | .shlU32 l _ _ _ => levelChecked l
  | .shlS64 l _ _ _ => levelChecked l
  | .shlU64 l _ _ _ => levelChecked l
  | .shrS32 _ _ _ => none
  | .shrU32 _ _ _ => none
  | .shrS64 _ _ _ => none
  | .shrU64 _ _ _ => none
  | .shrrS32 _ _ _ => none
  | .shrrU32 _ _ _ => none
  | .shrrS64 _ _ _ => none
  | .shrrU64 _ _ _ => none
  | .mulwS32 _ _ _ => none
  | .mulwU32 _ _ _ => none
  | .msS32 l _ _ _ _ => levelChecked l
  | .msU32 l _ _ _ _ => levelChecked l
  | .msS64 l _ _ _ _ => levelChecked l
  | .msU64 l _ _ _ _ => levelChecked l
  | .msrS32 l _ _ _ _ => levelChecked l
  | .msrU32 l _ _ _ _ => levelChecked l
  | .msrS64 l _ _ _ _ => levelChecked l
  | .msrU64 l _ _ _ _ => levelChecked l
  | .divmS32 c _ _ _ _ => some c
  | .divmU32 c _ _ _ _ => some c
  | .divmS64 c _ _ _ _ => some c
  | .divmU64 c _ _ _ _ => some c
  | .divrS32 c _ _ _ => some c
  | .divrU32 c _ _ _ => some c
  | .divrS64 c _ _ _ => some c
  | .divrU64 c _ _ _ => some c
  | .divsrS32 c _ _ _ _ => some c
  | .divsrU32 c _ _ _ _ => some c
  | .divsrS64 c _ _ _ _ => some c
  | .divsrU64 c _ _ _ _ => some c
  | .vdivl _ _ _ _ _ _ _ _ => none

/-- The error code an instruction reports if it reports at all (40_policy.md R105, R108). -/
def reportedCode (i : Instr) (s : State) : Option Code := (reportingLevel i).map s.checkedCode

/-- The word a report stores to under a policy record, if its action stores (R110, R111). -/
def storeAddress (r : PolicyRecord) (code : Code) : Option Nat :=
  match r.act with
  | .terminate => none
  | .count => some (counterAddress r.res code)
  | .setFlag => some r.res.toNat
  | .callback => none

/-- The instructions that can neither report nor raise a fatal condition, VDIVL apart: PPOP, SDEC, TMSET, TMGET, MULW, and
ADD, SUB, NEG at level U (60_exceptions.md R230, R231). -/
def alwaysCompletes (i : Instr) : Prop :=
  reportingLevel i = none ∧ i.opcode ∈ ([0x03, 0x04, 0x06, 0x07, 0x10, 0x11, 0x12, 0x30] : List Opc)

end Sys2Proof.Safety
end

