-- ==== Sys2Proof/Certificates/Slice0/Obligations.lean ====
section
/-! DEFINITION. What is claimed of the machine, each statement from the rules of spec/ that its docstring names. -/

open Sys2Proof Sys2Proof.Machine Sys2Proof.Safety

/-! ### The step, decoding and encoding -/

/-- A step at which the host issues a legal word in RUN is `exec` of the decoded instruction, the transaction taken off
the input (10_state.md R35, R36; log 1); nothing else is added around `exec`. -/
def Obligations.StepRunsDecodedInstruction : Prop :=
  (∀ (s : State) (w : InstrWord) (rest : List HostTxn) (i : Instr),
    s.runState = .run → s.input = .issue w :: rest → decode w = .ok i → step s = exec i { s with input := rest })
  ∧ ∀ (s : State) (nbits w : Nat) (i : Instr),
    s.runState = .run → decodeTableWord nbits w = some i → step (s.withFetchWord nbits w) = exec i s

/-- Worked words of the spec, one for each family, decode to the instructions they stand for (30_encoding.md R85 and the
examples of the instruction rules). -/
def Obligations.DecodesWorkedWords : Prop :=
  decode 0x0000000500215610#64 = .ok (.addS64 (.checked (.explicit ⟨none, 5⟩)) 5 1 2)
  ∧ decode 0x0000000000010102#64 = .ok (.ppush 1 1)
  ∧ decode 0x0100000500000005#64 = .ok (.report ⟨some .terminate, 5⟩)
  ∧ decode 0x0000000500015412#64 = .ok (.negS32 (.checked (.explicit ⟨none, 5⟩)) 5 1)
  ∧ decode 0x0000000000215021#64 = .ok (.shrS32 5 1 2)
  ∧ decode 0x0000000503215431#64 = .ok (.msS32 (.checked (.explicit ⟨none, 5⟩)) 5 1 2 3)
  ∧ decode 0x0800000540215440#64 = .ok (.divmS32 (.explicit ⟨none, 5⟩) 5 (some 4) 1 2)
  ∧ decode 0x0000007654213350#64 = .ok (.vdivl true 3 1 2 (some 4) 5 6 7)

/-- Decoding the word of a well-formed instruction gives that instruction back, every operand at every value
(30_encoding.md R82, R85). -/
def Obligations.DecodeEncode : Prop :=
  ∀ i : Instr, i.wellFormed = true → decode (encode i) = .ok i

/-- Every word that decodes is the one word of its instruction, which is well formed: no bit of a legal word is dropped
(R80, R82, R85). -/
def Obligations.EncodeDecode : Prop :=
  ∀ (w : InstrWord) (i : Instr), decode w = .ok i → i.wellFormed = true ∧ encode i = w

/-- A word is no instruction exactly when an item of R80 holds of its bits, and issuing such a word in RUN halts the unit
with cause ILLEGAL, code 0 and the word's low byte as HOP, whatever TM is (30_encoding.md R80). -/
def Obligations.IllegalWordsHalt : Prop :=
  (∀ w : InstrWord, (∃ i, decode w = .ok i) ↔ ¬illegalInstruction w)
  ∧ ∀ (s : State) (w : InstrWord) (rest : List HostTxn),
    s.runState = .run → s.input = .issue w :: rest → illegalInstruction w →
      step s = .next (haltedBy { s with input := rest } .illegal 0 (w.extractLsb' 0 8))

/-- PSET and PPUSH with `act` in 4..15 are legal words, and executing them raises BADACTION, PPUSH after its depth test
(30_encoding.md R81; 40_policy.md R101, R102). -/
def Obligations.BadActionIsDecoded : Prop :=
  ∀ (act : BitVec 4) (ra : Reg), 4 ≤ act.toNat →
    decode (encode (.pset act ra)) = .ok (.pset act ra) ∧ decode (encode (.ppush act ra)) = .ok (.ppush act ra)
    ∧ ∀ s : State, exec (.pset act ra) s = .next (haltedBy s .badAction 0 0x01)
      ∧ (s.psp.val < 4 → exec (.ppush act ra) s = .next (haltedBy s .badAction 0 0x02))

/-! ### The whole machine -/

/-- In HALTED an Issue changes nothing, the read transactions are available, and no transaction but Reset changes anything of the
unit (60_exceptions.md R235; `input` and `replies` are the model's queues of the host, logs 1 and 2). -/
def Obligations.HaltedUnitIsInert : Prop :=
  ∀ (s : State) (rest : List HostTxn), s.runState = .halted →
    (∀ w, s.input = .issue w :: rest → step s = .next { s with input := rest })
    ∧ (∀ r : Reg, s.input = .readReg r.toNat :: rest → ∃ s', step s = .next s')
    ∧ (∀ a, a < s.memWords → s.input = .readMem a :: rest → ∃ s', step s = .next s')
    ∧ (s.input = .readStatus :: rest ∨ s.input = .readEvents :: rest → ∃ s', step s = .next s')
    ∧ (∀ t s', s.input = t :: rest → t ≠ .reset → step s = .next s' →
        s' = { s with input := rest, replies := s'.replies })
    ∧ (s.input = .reset :: rest → ∃ s', step s = .next s' ∧ s'.runState = .run)

/-- The run state changes only along the transitions of R29, each with its transaction and its trace in the event log
(10_state.md R29). -/
def Obligations.RunStateTransitions : Prop :=
  ∀ s s' : State, step s = .next s' → s'.runState = s.runState ∨
    ∃ t rest, s.input = t :: rest ∧
      ((s.runState = .run ∧ s'.runState = .halted ∧
          ∃ w cause ec, t = .issue w ∧ s' = haltedBy { s with input := rest } cause ec (w.extractLsb' 0 8))
      ∨ (s.runState = .run ∧ s'.runState = .cbwait ∧
          ∃ w code, t = .issue w ∧ s'.ev = s.ev ++ [.callback s.current.res s.cc (w.extractLsb' 0 8) code])
      ∨ (s.runState = .cbwait ∧ s'.runState = .run ∧ t = .callbackReply .resume)
      ∨ (s.runState = .cbwait ∧ s'.runState = .halted ∧ t = .callbackReply .abort)
      ∨ (s'.runState = .run ∧ t = .reset))

/-- An instruction that answers a next state in RUN ends in exactly one of the outcomes A (completed: CC steps), B (halted:
nothing but the message, the halt status and the run state changes) and C (suspended: nothing but the Callback event, PEND and the
run state changes) (10_state.md R36; 60_exceptions.md R232; 40_policy.md R113). -/
def Obligations.InstructionOutcomes : Prop :=
  ∀ (i : Instr) (s s' : State), s.runState = .run → exec i s = .next s' →
    (s'.runState = .run ∧ s'.cc = s.cc + 1)
    ∨ (∃ cause ec, cause ∈ ([.terminate, .divZero, .shiftRange, .badAction, .pstackOvf, .memFault] : List Cause)
        ∧ s' = haltedBy s cause ec i.opcode)
    ∨ (∃ code writes, s.current.act = .callback ∧ reportedCode i s = some code ∧ writes.map (·.1) = destinations i
        ∧ s' = { s with
            ev := s.ev ++ [.callback s.current.res s.cc i.opcode code]
            pend := some { opc := i.opcode, code := code, writes := writes }
            runState := .cbwait })

/-- What a completed instruction leaves unchanged: every register but its destinations; PS and PSP but by PSET, PPUSH, PPOP;
DEC but by SDEC; TM but by TMSET; the halt status, PEND, the parameters and the host's queues always; the event log but for one
message; and every word of M but the one word that its report's action stores to. VDIVL has a frame of its own (`VdivlFrame`). -/
def Obligations.CompletionFrame : Prop :=
  ∀ (i : Instr) (s s' : State), s.runState = .run → exec i s = .next s' → s'.runState = .run → i.opcode ≠ 0x50 →
    (∀ r, r ∉ destinations i → s'.reg r = s.reg r)
    ∧ (i.opcode ∉ ([0x01, 0x02] : List Opc) → s'.ps = s.ps)
    ∧ (i.opcode ∉ ([0x02, 0x03] : List Opc) → s'.psp = s.psp)
    ∧ (i.opcode ≠ 0x04 → s'.dec = s.dec)
    ∧ (i.opcode ≠ 0x06 → s'.tm = s.tm)
    ∧ s'.hcause = s.hcause ∧ s'.hcc = s.hcc ∧ s'.hop = s.hop ∧ s'.hec = s.hec ∧ s'.pend = s.pend
    ∧ s'.params = s.params ∧ s'.input = s.input ∧ s'.replies = s.replies ∧ s'.draws = s.draws
    ∧ (s'.ev = s.ev ∨ ∃ cause code, s.tm = true ∧ s'.ev = s.ev ++ [.msg cause s.cc i.opcode code false])
    ∧ ∀ a, (∀ code, reportedCode i s = some code → storeAddress s.current code ≠ some a) →
        s'.readWord a = s.readWord a

/-- An instruction that halts the unit, and every instruction but PSET, PPUSH, PPOP and SDEC however it ends (a test-mode
sentinel among them), leaves PS, PSP and DEC exactly as they were (40_policy.md R115). -/
def Obligations.PolicySurvivesFatals : Prop :=
  ∀ (i : Instr) (s s' : State), s.runState = .run → exec i s = .next s' →
    (s'.runState = .halted ∨ i.opcode ∉ ([0x01, 0x02, 0x03, 0x04] : List Opc)) →
      s'.ps = s.ps ∧ s'.psp = s.psp ∧ s'.dec = s.dec

/-- CC is written by nothing but Reset, and steps by one exactly when an issued instruction completes or a suspended one is
resumed (10_state.md R22). -/
def Obligations.CounterCountsCompletions : Prop :=
  ∀ s s' : State, step s = .next s' →
    (s.input = [] → s'.cc = s.cc)
    ∧ ∀ t rest, s.input = t :: rest →
      match t with
      | .reset => s'.cc = 0
      | .writeReg _ _ => s'.cc = s.cc
      | .readReg _ => s'.cc = s.cc
      | .writeMem _ _ => s'.cc = s.cc
      | .readMem _ => s'.cc = s.cc
      | .issue _ => s'.cc = if s.runState = .run ∧ s'.runState = .run then s.cc + 1 else s.cc
      | .readStatus => s'.cc = s.cc
      | .readEvents => s'.cc = s.cc
      | .callbackReply .resume => s'.cc = s.cc + 1
      | .callbackReply .abort => s'.cc = s.cc

/-- The event log only grows, by at most one event a step, until a Reset empties it (10_state.md R32, R37), and no step changes
the parameters of the instance (00_scope.md R5). -/
def Obligations.EventLogOnlyGrows : Prop :=
  ∀ s s' : State, step s = .next s' →
    s'.params = s.params
    ∧ ((∃ rest, s.input = .reset :: rest) → s'.ev = [])
    ∧ ((∀ rest, s.input ≠ .reset :: rest) → ∃ l, s'.ev = s.ev ++ l ∧ l.length ≤ 1)

/-- Every step keeps the invariant: the memory canonical and inside M, PEND held exactly in CBWAIT with at most two writes,
HCAUSE non-zero exactly in HALTED (10_state.md R30, R31; 20_memory.md R50; log 5). -/
def Obligations.StepKeepsInvariant : Prop :=
  ∀ s s' : State, Inv s → step s = .next s' → Inv s'

/-- The invariant holds after reset. -/
def Obligations.ResetMeetsInvariant : Prop := Inv State.reset

/-- Instructions that can neither report nor raise a fatal condition, issued one after the other, are a safe run of any
length: the unit is never halted and never refuses (41_scalar_arith.md R120; 60_exceptions.md R230). A run longer than the input, an
empty input among them, ends in idle steps, and that an idle step answers the same state is the model's choice (log 3, DESIGN CHOICE;
60_exceptions.md R248, 70_reset_and_hazards.md R276). -/
def Obligations.UncheckedRunsAreSafe : Prop :=
  ∀ (n : Nat) (s : State), s.runState = .run →
    (∀ t ∈ s.input, ∃ w i, t = .issue w ∧ decode w = .ok i ∧ alwaysCompletes i) → safeFor n s

/-- Test mode changes nothing but test-mode messages: an instruction other than TMSET and TMGET that completes without an
event does the same in either mode (10_state.md R27; 60_exceptions.md R242). -/
def Obligations.TestModeIsOtherwiseInvisible : Prop :=
  ∀ (i : Instr) (s s' : State) (b : Bool), s.runState = .run → i.opcode ∉ ([0x06, 0x07] : List Opc) →
    exec i s = .next s' → s'.runState = .run → s'.ev = s.ev →
      exec i { s with tm := b } = .next { s' with tm := b }

/-! ### Policy instructions (40_policy.md) -/

/-- PSET with a legal action replaces the current record and nothing else (R101). -/
def Obligations.PsetSetsCurrentRecord : Prop :=
  ∀ (a : Action) (ra : Reg) (s : State),
    ∃ t, exec (.pset (actField a) ra) s = .next t
      ∧ (∀ k : Fin 5, t.ps[k] = if k = s.psp then { act := a, res := (s.reg ra).setWidth 32 } else s.ps[k])
      ∧ t = { s with ps := t.ps, cc := s.cc + 1 }

/-- PPUSH: with five records in use PSTACKOVF, whatever `act` is and in test mode too; else a legal action saves the current
record and sets the new one above it (R102, 90_conflicts.md C1). -/
def Obligations.PpushSavesAndSets : Prop :=
  ∀ (ra : Reg) (s : State),
    (s.psp.val = 4 → ∀ act, exec (.ppush act ra) s = .next (haltedBy s .pstackOvf 0 0x02))
    ∧ (s.psp.val < 4 → ∀ a : Action,
        ∃ t, exec (.ppush (actField a) ra) s = .next t
          ∧ t.psp.val = s.psp.val + 1
          ∧ (∀ k : Fin 5, t.ps[k] =
              if k.val = s.psp.val + 1 then { act := a, res := (s.reg ra).setWidth 32 } else s.ps[k])
          ∧ t = { s with ps := t.ps, psp := t.psp, cc := s.cc + 1 })

/-- PPOP moves PSP down by one and stays at the base; SDEC, TMSET and TMGET write DEC, TM and `x[rd]`; each changes only that
and CC (R103, R104, R106, R107). -/
def Obligations.PpopSdecTmsetTmget : Prop :=
  ∀ s : State,
    (∃ t, exec .ppop s = .next t ∧ t.psp.val = s.psp.val - 1 ∧ t = { s with psp := t.psp, cc := s.cc + 1 })
    ∧ (∀ code, exec (.sdec code) s = .next { s with dec := code, cc := s.cc + 1 })
    ∧ (∀ b, exec (.tmset b) s = .next { s with tm := b, cc := s.cc + 1 })
    ∧ ∀ rd, exec (.tmget rd) s = .next (completed s rd (if s.tm then 1 else 0))

/-- After a PPUSH that succeeds at PSP = p, the first later PPOP that brings PSP back to p leaves the records 0..p and PSP
as they were before the PPUSH, whatever instructions completed in between (R114). -/
def Obligations.StackDiscipline : Prop :=
  ∀ (act : BitVec 4) (ra : Reg) (is : List Instr) (s s1 s2 s3 : State),
    exec (.ppush act ra) s = .next s1 → s1.runState = .run → Above s.psp.val s1 is s2 →
    exec .ppop s2 = .next s3 → s3.psp.val = s.psp.val →
      s3.psp = s.psp ∧ ∀ k : Fin 5, k ≤ s.psp → s3.ps[k] = s.ps[k]

/-- A checked-deferred instruction is the checked-explicit one with the code DEC and no override, for every instruction that
has a deferred form (R108). -/
def Obligations.DeferredUsesDec : Prop :=
  ∀ (t : Ty) (rd ra rb rc : Reg) (wide : Bool) (r : Option Reg) (s : State),
    let d := Checked.deferred
    let e := Checked.explicit { override := none, code := s.dec }
    exec (.add t (.checked d) rd ra rb) s = exec (.add t (.checked e) rd ra rb) s
    ∧ exec (.sub t (.checked d) rd ra rb) s = exec (.sub t (.checked e) rd ra rb) s
    ∧ exec (.neg wide (.checked d) rd ra) s = exec (.neg wide (.checked e) rd ra) s
    ∧ exec (.shl t (.checked d) rd ra rb) s = exec (.shl t (.checked e) rd ra rb) s
    ∧ exec (.ms t (.checked d) rd ra rb rc) s = exec (.ms t (.checked e) rd ra rb rc) s
    ∧ exec (.msr t (.checked d) rd ra rb rc) s = exec (.msr t (.checked e) rd ra rb rc) s
    ∧ exec (.divm t d rd r ra rb) s = exec (.divm t e rd r ra rb) s
    ∧ exec (.divr t d rd ra rb) s = exec (.divr t e rd ra rb) s
    ∧ exec (.divsr t d rd ra rb rc) s = exec (.divsr t e rd ra rb rc) s

/-! ### Reports (40_policy.md R100, R109 to R113): `reportThenComplete` is what an instruction does from its report on; `o` is the
override, `ws` the register writes with the substituted result. -/

/-- Terminate: in production mode the message, HALTED and no register write; in test mode the message and completion
(R112; 60_exceptions.md R232). -/
def Obligations.TerminateHaltsOrReturns : Prop :=
  ∀ (s : State) (code : Code) (o : Option Action) (opc : Opc) (ws : List RegWrite), resolvesTo s o .terminate →
    (s.tm = false → reportThenComplete code o opc ws s = .next (haltedBy s .terminate code opc))
    ∧ (s.tm = true → reportThenComplete code o opc ws s
        = .next (({ s with ev := s.ev ++ [.msg .terminate s.cc opc code false] } : State).complete ws))

/-- Count: the word at `res + code` is incremented modulo 2^32, nothing else in M changes, and the instruction completes;
outside M it is MEMFAULT with the reported code, in test mode too, and nothing is written (R110). -/
def Obligations.CountIncrementsOneWord : Prop :=
  ∀ (s : State) (code : Code) (o : Option Action) (opc : Opc) (ws : List RegWrite), resolvesTo s o .count →
    let a := s.current.res.toNat + code.toNat
    (a < s.memWords → ∃ t : State, reportThenComplete code o opc ws s = .next (t.complete ws)
        ∧ t = { s with mem := t.mem }
        ∧ ∀ b, t.readWord b = if b = a then BitVec.ofNat 32 ((s.readWord a).toNat + 1) else s.readWord b)
    ∧ (s.memWords ≤ a → reportThenComplete code o opc ws s = .next (haltedBy s .memFault code opc))

/-- SetFlag: bit `code` of the word at `res` becomes 1, every other bit and word stays, and the instruction completes; outside M
it is MEMFAULT; a code of 32 or more is refused, before the address is looked at (R111, 60_exceptions.md R236, log 7). -/
def Obligations.SetFlagSetsOneBit : Prop :=
  ∀ (s : State) (code : Code) (o : Option Action) (opc : Opc) (ws : List RegWrite), resolvesTo s o .setFlag →
    let a := s.current.res.toNat
    (code.toNat < 32 → a < s.memWords → ∃ t : State, reportThenComplete code o opc ws s = .next (t.complete ws)
        ∧ t = { s with mem := t.mem }
        ∧ (∀ b, b ≠ a → t.readWord b = s.readWord b)
        ∧ ∀ k, (t.readWord a).getLsbD k = ((s.readWord a).getLsbD k || decide (k = code.toNat)))
    ∧ (code.toNat < 32 → s.memWords ≤ a → reportThenComplete code o opc ws s = .next (haltedBy s .memFault code opc))
    ∧ (32 ≤ code.toNat → reportThenComplete code o opc ws s = .refused .setFlagCode)

/-- Callback: the event, PEND and CBWAIT, nothing else; then, while no other transaction comes first, the reply *resume* leaves
exactly what the instruction would have left had the action returned at once, the Callback event apart, and *abort* halts
the unit with cause CBABORT, the reported code, CC unchanged and no message (R113; 60_exceptions.md R239). -/
def Obligations.CallbackSuspendsAndReplies : Prop :=
  ∀ (s : State) (code : Code) (o : Option Action) (opc : Opc) (ws : List RegWrite) (rest : List HostTxn),
    resolvesTo s o .callback → s.runState = .run → s.pend = none →
    let ev' := s.ev ++ [Event.callback s.current.res s.cc opc code]
    ∃ t, reportThenComplete code o opc ws s = .next t
      ∧ t = { s with ev := ev', pend := some { opc := opc, code := code, writes := ws }, runState := .cbwait }
      ∧ step { t with input := .callbackReply .resume :: rest }
          = .next (({ s with ev := ev', input := rest } : State).complete ws)
      ∧ step { t with input := .callbackReply .abort :: rest }
          = .next { s with
              ev := ev', input := rest, hcause := .cbAbort, hcc := s.cc, hop := opc, hec := code, runState := .halted }

/-- An override to Count, SetFlag or Callback while the current record is of another kind is refused, and with any other
override or none the report is not refused for its kind (R100, log 8). -/
def Obligations.OverrideNeedsItsKind : Prop :=
  ∀ (s : State) (code : Code) (o : Option Action) (opc : Opc) (ws : List RegWrite),
    reportThenComplete code o opc ws s = .refused .overrideKind ↔
      ∃ a, o = some a ∧ a ≠ .terminate ∧ a ≠ s.current.act

/-- The completion after a report: each register holds the last value written to it, CC steps, nothing else changes
(R109; 10_state.md R22, R36). -/
def Obligations.CompletionWrites : Prop :=
  ∀ (s : State) (ws : List RegWrite),
    (∀ r, (s.complete ws).reg r = (lastWrite ws r).getD (s.reg r))
    ∧ s.complete ws = { s with regs := (s.complete ws).regs, cc := s.cc + 1 }

/-- REPORT performs one report with its own code and selector and no register write (R105): under a Count record with the
counter inside M it completes with the counter incremented; under each other record it is the report of that record. -/
def Obligations.ReportInstruction : Prop :=
  ∀ (e : Ecf) (s : State),
    exec (.report e) s = reportThenComplete e.code e.override 0x05 [] s
    ∧ (s.current.act = .count → e.override = none → s.current.res.toNat + e.code.toNat < s.memWords →
        ∃ t, exec (.report e) s = .next t ∧ t = { s with mem := t.mem, cc := s.cc + 1 }
          ∧ t.readWord (s.current.res.toNat + e.code.toNat)
              = s.readWord (s.current.res.toNat + e.code.toNat) + 1)

/-! ### Host transactions and reset -/

/-- Reset, in every run state: every register, CC, the policy state, the halt status, PEND and the event log as R37 says, M
unchanged; the state after reset holds the same values (10_state.md R37; 70_reset_and_hazards.md R270). The parameters, the host's
queues and the free-value counter are the model's (logs 4, 1, 2, 6, 14). -/
def Obligations.ResetTransaction : Prop :=
  (∀ (s : State) (rest : List HostTxn), s.input = .reset :: rest →
    ∃ t, step s = .next t
      ∧ (∀ r, t.reg r = 0) ∧ t.cc = 0 ∧ t.psp.val = 0 ∧ (∀ k : Fin 5, t.ps[k] = { act := .terminate, res := 0 })
      ∧ t.dec = 0 ∧ t.tm = false ∧ t.runState = .run ∧ t.hcause = .none ∧ t.hcc = 0 ∧ t.hop = 0 ∧ t.hec = 0
      ∧ t.pend = none ∧ t.ev = [] ∧ t.mem = s.mem ∧ t.params = s.params)
  ∧ (∀ s s' : State, s.runState = .halted → step s = .next s' → s'.runState ≠ .halted → ∃ rest, s.input = .reset :: rest)
  ∧ (∀ r, State.reset.reg r = 0) ∧ State.reset.cc = 0 ∧ State.reset.psp.val = 0
  ∧ (∀ k : Fin 5, State.reset.ps[k] = { act := .terminate, res := 0 })
  ∧ State.reset.dec = 0 ∧ State.reset.tm = false ∧ State.reset.runState = .run ∧ State.reset.hcause = .none
  ∧ State.reset.hcc = 0 ∧ State.reset.hop = 0 ∧ State.reset.hec = 0 ∧ State.reset.pend = none ∧ State.reset.ev = []

/-- WriteReg and WriteMem in RUN, ReadReg, ReadMem, ReadStatus and ReadEvents in every run state: what each does and that it does
nothing else (10_state.md R35). That an answer is appended to `replies` is the model's choice (log 2). -/
def Obligations.HostReadsAndWrites : Prop :=
  ∀ (s : State) (rest : List HostTxn),
    (∀ (r : Reg) v, s.runState = .run → s.input = .writeReg r.toNat v :: rest →
        step s = .next { s with input := rest, regs := s.regs.set r.toNat v r.isLt })
    ∧ (∀ a v, s.runState = .run → a < s.memWords → s.input = .writeMem a v :: rest →
        ∃ t, step s = .next t ∧ t = { s with input := rest, mem := t.mem }
          ∧ ∀ b, t.readWord b = if b = a then v else s.readWord b)
    ∧ (∀ r : Reg, s.input = .readReg r.toNat :: rest →
        step s = .next { s with input := rest, replies := s.replies ++ [.reg (s.reg r)] })
    ∧ (∀ a, a < s.memWords → s.input = .readMem a :: rest →
        step s = .next { s with input := rest, replies := s.replies ++ [.mem (s.readWord a)] })
    ∧ (s.input = .readStatus :: rest →
        step s = .next { s with
          input := rest
          replies := s.replies ++ [.status
            { runState := s.runState, cc := s.cc, psp := s.psp, ps := s.ps, dec := s.dec, tm := s.tm, hcause := s.hcause,
              hcc := s.hcc, hop := s.hop, hec := s.hec }] })
    ∧ (s.input = .readEvents :: rest →
        step s = .next { s with input := rest, replies := s.replies ++ [.events s.ev] })

/-- A transaction outside the host's contract is refused (10_state.md R35; 93_implementation_defined.md U11). The model's choice:
the two names, and that ReadReg of a register above 15 is refused too (logs 10, 11). -/
def Obligations.HostContractStops : Prop :=
  ∀ (s : State) (rest : List HostTxn),
    (∀ w, s.runState = .cbwait → s.input = .issue w :: rest → step s = .refused .hostContract)
    ∧ (∀ i v, s.runState ≠ .run → s.input = .writeReg i v :: rest → step s = .refused .hostContract)
    ∧ (∀ i v, 16 ≤ i → s.input = .writeReg i v :: rest → step s = .refused .hostContract)
    ∧ (∀ i, 16 ≤ i → s.input = .readReg i :: rest → step s = .refused .hostContract)
    ∧ (∀ a v, s.runState ≠ .run → s.input = .writeMem a v :: rest → step s = .refused .hostContract)
    ∧ (∀ a v, s.runState = .run → s.memWords ≤ a → s.input = .writeMem a v :: rest → step s = .refused (.hostAddress a))
    ∧ (∀ a, s.memWords ≤ a → s.input = .readMem a :: rest → step s = .refused (.hostAddress a))
    ∧ (∀ r, s.runState ≠ .cbwait → s.input = .callbackReply r :: rest → step s = .refused .hostContract)

/-- The model's choice (log 3, from 60_exceptions.md R248 and 70_reset_and_hazards.md R276): while the host asks for nothing, the unit is
idle and a step changes nothing. -/
def Obligations.IdleUnitWaits : Prop := ∀ s : State, s.input = [] → step s = .next s

/-! ### Memory (20_memory.md) -/

/-- A read returns the value last written, a write changes only its word, writing twice is writing once; and two canonical
memories that hold the same words are the same data (R57; log 5). -/
def Obligations.MemoryIsPlainStorage : Prop :=
  (∀ (s : State) (a b : Nat) (v : Word), (s.writeWord a v).readWord b = if b = a then v else s.readWord b)
  ∧ (∀ (s : State) (a : Nat) (v : Word), (s.writeWord a v).writeWord a v = s.writeWord a v)
  ∧ ∀ m n : Memory, m.wf → n.wf → (∀ a, memFind m a = memFind n a) → m = n

/-- The value of a digit vector is the sum of its digits weighted by powers of 2^32, in either digit order; writing a value
gives each digit its place and touches no other word; what is written is read back; no instruction changes the digit order
(R53). -/
def Obligations.DigitVectorLayout : Prop :=
  (∀ (msd : Bool) (m : Memory) (r : Region),
    vecValue msd m r
      = ((List.range r.len).map (fun i =>
          (memWord m (r.base + if msd then r.len - 1 - i else i)).toNat * 2 ^ (32 * i))).sum)
  ∧ (∀ (msd : Bool) (m : Memory) (r : Region) (v : Nat),
      (∀ i, i < r.len → (memWord (vecPut msd m r v) (r.base + if msd then r.len - 1 - i else i)).toNat
          = v / 2 ^ (32 * i) % 2 ^ 32)
      ∧ (∀ a, ¬inside r a → memWord (vecPut msd m r v) a = memWord m a)
      ∧ (v < 2 ^ (32 * r.len) → vecValue msd (vecPut msd m r v) r = v))
  ∧ ∀ (i : Instr) (s s' : State), exec i s = .next s' → s'.params.vecMsdFirst = s.params.vecMsdFirst

/-! ### ADD, SUB, NEG (41_scalar_arith.md) -/

/-- ADD of every type: the N-bit sum at level U and wherever it does not overflow by the source's test; else one report with the
maximum of the operands' sign substituted (R121, R124). -/
def Obligations.AddWrapsOrSaturates : Prop :=
  ∀ (t : Ty) (l : Level) (rd ra rb : Reg) (s : State),
    let a := low t (s.reg ra)
    let b := low t (s.reg rb)
    (l = .unchecked ∨ ¬addOverflows t a b →
      exec (.add t l rd ra rb) s = .next (completed s rd ((a + b).setWidth 64)))
    ∧ ∀ c, l = .checked c → addOverflows t a b →
      exec (.add t l rd ra rb) s = reportThenComplete (s.checkedCode c) (checkedOverride c) 0x10
        [(rd, saturation t (t.signed && a.msb))] s

/-- SUB of every type, in the same way; the substituted value has the sign of the minuend for a signed type and is 0 for a
borrow of an unsigned one (R122, R124). -/
def Obligations.SubWrapsOrSaturates : Prop :=
  ∀ (t : Ty) (l : Level) (rd ra rb : Reg) (s : State),
    let a := low t (s.reg ra)
    let b := low t (s.reg rb)
    (l = .unchecked ∨ ¬subOverflows t a b →
      exec (.sub t l rd ra rb) s = .next (completed s rd ((a - b).setWidth 64)))
    ∧ ∀ c, l = .checked c → subOverflows t a b →
      exec (.sub t l rd ra rb) s = reportThenComplete (s.checkedCode c) (checkedOverride c) 0x11
        [(rd, saturation t (!t.signed || a.msb))] s

/-- NEG overflows for the most negative value only: level U keeps its bit pattern, a checked level reports and substitutes
the maximum (R123). -/
def Obligations.NegOverflowsAtTheMinimum : Prop :=
  ∀ (wide : Bool) (l : Level) (rd ra : Reg) (s : State),
    let t := if wide then Ty.s64 else Ty.s32
    let a := low t (s.reg ra)
    (l = .unchecked ∨ a ≠ BitVec.intMin t.width →
      exec (.neg wide l rd ra) s = .next (completed s rd ((-a).setWidth 64)))
    ∧ ∀ c, l = .checked c → a = BitVec.intMin t.width →
      exec (.neg wide l rd ra) s = reportThenComplete (s.checkedCode c) (checkedOverride c) 0x12
        [(rd, saturation t false)] s

/-- Where the true result is representable, every level of ADD, SUB and NEG does what level U does: it writes the result, makes no
report and leaves M, EV and the policy state untouched (R125). -/
def Obligations.LevelsAgree : Prop :=
  ∀ (t : Ty) (wide : Bool) (l : Level) (rd ra rb : Reg) (s : State),
    let ts := if wide then Ty.s64 else Ty.s32
    (representable t (t.val (s.reg ra) + t.val (s.reg rb)) →
      exec (.add t l rd ra rb) s = exec (.add t .unchecked rd ra rb) s
      ∧ exec (.add t l rd ra rb) s = .next (completed s rd (image t (t.val (s.reg ra) + t.val (s.reg rb)))))
    ∧ (representable t (t.val (s.reg ra) - t.val (s.reg rb)) →
      exec (.sub t l rd ra rb) s = exec (.sub t .unchecked rd ra rb) s
      ∧ exec (.sub t l rd ra rb) s = .next (completed s rd (image t (t.val (s.reg ra) - t.val (s.reg rb)))))
    ∧ (representable ts (-(ts.val (s.reg ra))) →
      exec (.neg wide l rd ra) s = exec (.neg wide .unchecked rd ra) s
      ∧ exec (.neg wide l rd ra) s = .next (completed s rd (image ts (-(ts.val (s.reg ra))))))

/-- For the 32-bit types the upper halves of the sources change neither the result nor whether the instruction overflows, and
the upper half of the destination is written 0: two runs of ADD, SUB or NEG from states that differ in the registers only, and
not in the low halves of the sources (R126). -/
def Obligations.UpperHalfIsIgnored : Prop :=
  ∀ (i : Instr) (l : Level) (rd ra rb : Reg) (s u s' : State),
    (i = .addS32 l rd ra rb ∨ i = .addU32 l rd ra rb ∨ i = .subS32 l rd ra rb ∨ i = .subU32 l rd ra rb
      ∨ i = .negS32 l rd ra) →
    u = { s with regs := u.regs } →
    (u.reg ra).setWidth 32 = (s.reg ra).setWidth 32 → (u.reg rb).setWidth 32 = (s.reg rb).setWidth 32 →
    s.runState = .run → exec i s = .next s' →
      ∃ u', exec i u = .next u' ∧ u' = { s' with regs := u'.regs }
        ∧ (s'.runState = .run → u'.reg rd = s'.reg rd ∧ (s'.reg rd).toNat < 2 ^ 32)

/-! ### Shifts (42_shift.md) -/

/-- SHL by an amount in range: the shifted pattern at level U and wherever no bit is lost by the bit-level test; else one report
with the maximum of the operand's sign substituted (R141, R146). -/
def Obligations.ShlLosesNoBit : Prop :=
  ∀ (t : Ty) (l : Level) (rd ra rb : Reg) (s : State),
    let p := low t (s.reg ra)
    let k := (s.reg rb).toNat
    k < t.width →
    (l = .unchecked ∨ ¬shlOverflows t p k →
      exec (.shl t l rd ra rb) s = .next (completed s rd ((p <<< k).setWidth 64)))
    ∧ ∀ c, l = .checked c → shlOverflows t p k →
      exec (.shl t l rd ra rb) s = reportThenComplete (s.checkedCode c) (checkedOverride c) 0x20
        [(rd, saturation t (t.signed && p.msb))] s

/-- The bit-level overflow test of a left shift and the machine's own range test on the exact product, the one SHL hands to Finish,
are the same (R146). -/
def Obligations.ShlBitTestIsRangeTest : Prop :=
  ∀ (t : Ty) (p : BitVec t.width) (k : Nat), k < t.width →
    (shlOverflows t p k ↔ t.inRange (valueOf t.signed p * 2 ^ k) = false)

/-- SHR and SHRR by an amount in range: arithmetic or logical shift right, and for SHRR with `k` above 0 the bit `k - 1` of the
operand added to it (R142, R143, R145). -/
def Obligations.ShrrAddsRoundBit : Prop :=
  ∀ (t : Ty) (rd ra rb : Reg) (s : State),
    let p := low t (s.reg ra)
    let k := (s.reg rb).toNat
    k < t.width →
    exec (.shr t rd ra rb) s = .next (completed s rd ((shiftedRight t p k).setWidth 64))
    ∧ exec (.shrr t rd ra rb) s = .next (completed s rd
        ((if 0 < k ∧ p.getLsbD (k - 1) = true then shiftedRight t p k + 1 else shiftedRight t p k).setWidth 64))

/-- SHRR is not "round the magnitude, then restore the sign": the two agree except where the discarded bits are exactly one half
and the value is negative, and there SHRR is one greater (R144). -/
def Obligations.ShrrIsNotMagnitudeRounding : Prop :=
  ∀ (t : Ty) (rd ra rb : Reg) (s : State),
    let a := valueOf t.signed (low t (s.reg ra))
    let k := (s.reg rb).toNat
    let half : Prop := (low t (s.reg ra)).getLsbD (k - 1) = true ∧ ∀ j, j < k - 1 → (low t (s.reg ra)).getLsbD j = false
    let magnitude : Int := (a.natAbs + 2 ^ (k - 1)) / 2 ^ k
    0 < k → k < t.width →
    (0 ≤ a → exec (.shrr t rd ra rb) s = .next (completed s rd (image t magnitude)))
    ∧ (a < 0 → ¬half → exec (.shrr t rd ra rb) s = .next (completed s rd (image t (-magnitude))))
    ∧ (a < 0 → half → exec (.shrr t rd ra rb) s = .next (completed s rd (image t (-magnitude + 1))))

/-- An amount outside 0..N-1 of SHL, SHR, SHRR, read as a signed 64-bit number and never masked, is SHIFTRANGE at every level: HALTED,
or in test mode the message and the sentinel 0 (R140; 40_policy.md R108; 60_exceptions.md R232, R234). -/
def Obligations.ShiftRangeIsFatal : Prop :=
  ∀ (t : Ty) (l : Level) (rd ra rb : Reg) (s : State),
    (s.reg rb).toInt < 0 ∨ (t.width : Int) ≤ (s.reg rb).toInt →
    exec (.shl t l rd ra rb) s = .next (fatalOutcome s .shiftRange (s.levelCode l) 0x20 rd)
    ∧ exec (.shr t rd ra rb) s = .next (fatalOutcome s .shiftRange 0 0x21 rd)
    ∧ exec (.shrr t rd ra rb) s = .next (fatalOutcome s .shiftRange 0 0x22 rd)

/-! ### Multiply (43_multiply.md) -/

/-- MULW writes the exact 64-bit product of the two low halves, signed or unsigned; nothing is lost (R161). -/
def Obligations.MulwIsExact : Prop :=
  ∀ (rd ra rb : Reg) (s : State),
    (∃ p : Dword, exec (.mulwS32 rd ra rb) s = .next (completed s rd p)
      ∧ p.toInt = ((s.reg ra).setWidth 32).toInt * ((s.reg rb).setWidth 32).toInt)
    ∧ ∃ p : Dword, exec (.mulwU32 rd ra rb) s = .next (completed s rd p)
      ∧ p.toNat = ((s.reg ra).setWidth 32).toNat * ((s.reg rb).setWidth 32).toNat

/-- MS with a scale `k` in range: `v` is the one integer with `v * 2^k <= p < (v + 1) * 2^k` for the exact product `p`; it is written
at level U and wherever it is representable, else reported and saturated by its sign (R160, R162). -/
def Obligations.MsFloorsTheProduct : Prop :=
  ∀ (t : Ty) (l : Level) (rd ra rb rc : Reg) (s : State) (v : Int),
    let p := valueOf t.signed (low t (s.reg ra)) * valueOf t.signed ((s.reg rb).setWidth 32)
    let k := (s.reg rc).toNat
    k < t.width + 32 → v * 2 ^ k ≤ p → p < (v + 1) * 2 ^ k →
    (l = .unchecked ∨ representable t v → exec (.ms t l rd ra rb rc) s = .next (completed s rd (image t v)))
    ∧ ∀ c, l = .checked c → ¬representable t v →
      exec (.ms t l rd ra rb rc) s = reportThenComplete (s.checkedCode c) (checkedOverride c) 0x31
        [(rd, saturation t (decide (v < 0)))] s

/-- MSR with a scale `k` in range: `v` is the integer nearest to `p / 2^k`, a tie going up; written or reported as for MS
(R160, R163, R165). -/
def Obligations.MsrRoundsTheProduct : Prop :=
  ∀ (t : Ty) (l : Level) (rd ra rb rc : Reg) (s : State) (v : Int),
    let p := valueOf t.signed (low t (s.reg ra)) * valueOf t.signed ((s.reg rb).setWidth 32)
    let k := (s.reg rc).toNat
    k < t.width + 32 → (2 * v - 1) * 2 ^ k ≤ 2 * p → 2 * p < (2 * v + 1) * 2 ^ k →
    (l = .unchecked ∨ representable t v → exec (.msr t l rd ra rb rc) s = .next (completed s rd (image t v)))
    ∧ ∀ c, l = .checked c → ¬representable t v →
      exec (.msr t l rd ra rb rc) s = reportThenComplete (s.checkedCode c) (checkedOverride c) 0x32
        [(rd, saturation t (decide (v < 0)))] s

/-- With multiplier 1 and a scale in range of both, MSR is SHRR and MS is SHR, at every level; MS with scale 0 and no overflow
is the low N bits of the product (R166). -/
def Obligations.MultiplyByOneIsShift : Prop :=
  ∀ (t : Ty) (l : Level) (rd ra rb rc : Reg) (s : State),
    ((s.reg rb).setWidth 32 = 1#32 → (s.reg rc).toNat < t.width →
      exec (.msr t l rd ra rb rc) s = exec (.shrr t rd ra rc) s
      ∧ exec (.ms t l rd ra rb rc) s = exec (.shr t rd ra rc) s)
    ∧ (s.reg rc = 0 →
        representable t (valueOf t.signed (low t (s.reg ra)) * valueOf t.signed ((s.reg rb).setWidth 32)) →
        let b : BitVec t.width :=
          if t.signed then ((s.reg rb).setWidth 32).signExtend t.width else ((s.reg rb).setWidth 32).setWidth t.width
        exec (.ms t l rd ra rb rc) s = .next (completed s rd ((low t (s.reg ra) * b).setWidth 64)))

/-- A scale outside 0..N+31 of MS and MSR, and one outside -63..63 of DIVSR whatever its divisor is, is SHIFTRANGE at every level
(R160; 44_divide.md R183; 60_exceptions.md R232, R234, R236). -/
def Obligations.ScaleRangeIsFatal : Prop :=
  ∀ (t : Ty) (l : Level) (c : Checked) (rd ra rb rc : Reg) (s : State),
    ((s.reg rc).toInt < 0 ∨ (t.width : Int) + 32 ≤ (s.reg rc).toInt →
      exec (.ms t l rd ra rb rc) s = .next (fatalOutcome s .shiftRange (s.levelCode l) 0x31 rd)
      ∧ exec (.msr t l rd ra rb rc) s = .next (fatalOutcome s .shiftRange (s.levelCode l) 0x32 rd))
    ∧ ((s.reg rc).toInt ≤ -64 ∨ 64 ≤ (s.reg rc).toInt →
      exec (.divsr t c rd ra rb rc) s = .next (fatalOutcome s .shiftRange (s.checkedCode c) 0x42 rd))

/-! ### Divide (44_divide.md) -/

/-- DIVM with a divisor other than 0: there are a quotient and a remainder with `n = q * d + r`, `abs r < abs d` and `r` 0 or of
the sign of `n`; where `abs q < LIM` both are written, else one report is made with the quotient saturated by the sign of `n * d` and
the same true remainder (R181, R184, R185). -/
def Obligations.DivmIdentity : Prop :=
  ∀ (t : Ty) (c : Checked) (rd re ra rb : Reg) (s : State),
    let n := valueOf t.signed (s.reg ra)
    let d := valueOf t.signed (low t (s.reg rb))
    d ≠ 0 →
    ∃ q r : Int, n = q * d + r ∧ r.natAbs < d.natAbs ∧ (r = 0 ∨ r.sign = n.sign)
      ∧ (q.natAbs < limit t →
          exec (.divm t c rd none ra rb) s = .next (completed s rd (image t q))
          ∧ exec (.divm t c rd (some re) ra rb) s = .next
              { s with regs := (s.regs.set rd.toNat (image t q) rd.isLt).set re.toNat (image t r) re.isLt, cc := s.cc + 1 })
      ∧ (limit t ≤ q.natAbs →
          exec (.divm t c rd none ra rb) s = reportThenComplete (s.checkedCode c) (checkedOverride c) 0x40
            [(rd, saturation t (decide (n * d < 0)))] s
          ∧ exec (.divm t c rd (some re) ra rb) s = reportThenComplete (s.checkedCode c) (checkedOverride c) 0x40
            [(rd, saturation t (decide (n * d < 0))), (re, image t r)] s)

/-- DIVR in terms of the truncating division: the magnitude of its quotient is `abs q0`, plus 1 where `2 * abs r0 >= abs d`, its sign
that of `n * d`; written where the magnitude is below LIM, else one report is made and the quotient saturated (R182, R184, R186). -/
def Obligations.DivrRoundsToNearest : Prop :=
  ∀ (t : Ty) (c : Checked) (rd ra rb : Reg) (s : State),
    let n := valueOf t.signed (s.reg ra)
    let d := valueOf t.signed (low t (s.reg rb))
    d ≠ 0 →
    ∃ q0 r0 : Int, n = q0 * d + r0 ∧ r0.natAbs < d.natAbs ∧ (r0 = 0 ∨ r0.sign = n.sign)
      ∧ let qm : Nat := if d.natAbs ≤ 2 * r0.natAbs then q0.natAbs + 1 else q0.natAbs
        (qm < limit t →
          exec (.divr t c rd ra rb) s = .next (completed s rd (image t (if n * d < 0 then -(qm : Int) else (qm : Int)))))
        ∧ (limit t ≤ qm →
          exec (.divr t c rd ra rb) s = reportThenComplete (s.checkedCode c) (checkedOverride c) 0x41
            [(rd, saturation t (decide (n * d < 0)))] s)

/-- DIVSR with its scale in range and a divisor other than 0: the dividend is scaled left, or right with floor; where it leaves the
64-bit range of its signedness, or the rounded quotient's magnitude reaches LIM, one report is made with the sign of `n * d`; else the
quotient of the scaled dividend, rounded to nearest with ties away from zero, is written (R183, R184). -/
def Obligations.DivsrScalesThenRounds : Prop :=
  ∀ (t : Ty) (c : Checked) (rd ra rb rc : Reg) (s : State) (n2 : Int),
    let n := valueOf t.signed (s.reg ra)
    let d := valueOf t.signed (low t (s.reg rb))
    let k := (s.reg rc).toInt
    let qm : Nat := (2 * n2.natAbs + d.natAbs) / (2 * d.natAbs)
    let fits := representable (if t.signed then .s64 else .u64) n2
    d ≠ 0 → -64 < k → k < 64 →
    (0 ≤ k → n2 = n * 2 ^ k.toNat) → (k < 0 → n2 * 2 ^ (-k).toNat ≤ n ∧ n < (n2 + 1) * 2 ^ (-k).toNat) →
    (fits → qm < limit t → exec (.divsr t c rd ra rb rc) s
        = .next (completed s rd (image t (if n2 * d < 0 then -(qm : Int) else (qm : Int)))))
    ∧ (¬fits ∨ limit t ≤ qm → exec (.divsr t c rd ra rb rc) s
        = reportThenComplete (s.checkedCode c) (checkedOverride c) 0x42 [(rd, saturation t (decide (n * d < 0)))] s)

/-- A zero divisor: DIVM and DIVSR raise DIVZERO whatever the policy stack holds (HALTED, or in test mode the message and the
sentinel 0 in every destination), DIVR writes 0 with no error in either mode (R182, R187). -/
def Obligations.DivisionByZero : Prop :=
  ∀ (t : Ty) (c : Checked) (rd re ra rb rc : Reg) (s : State), low t (s.reg rb) = 0 →
    exec (.divm t c rd none ra rb) s = .next (fatalOutcome s .divZero (s.checkedCode c) 0x40 rd)
    ∧ (s.tm = false → exec (.divm t c rd (some re) ra rb) s = .next (haltedBy s .divZero (s.checkedCode c) 0x40))
    ∧ (s.tm = true → exec (.divm t c rd (some re) ra rb) s = .next
        { s with
          ev := s.ev ++ [.msg .divZero s.cc 0x40 (s.checkedCode c) false]
          regs := (s.regs.set rd.toNat 0 rd.isLt).set re.toNat 0 re.isLt
          cc := s.cc + 1 })
    ∧ (-64 < (s.reg rc).toInt → (s.reg rc).toInt < 64 →
        exec (.divsr t c rd ra rb rc) s = .next (fatalOutcome s .divZero (s.checkedCode c) 0x42 rd))
    ∧ exec (.divr t c rd ra rb) s = .next (completed s rd 0)

/-! ### VDIVL (45_vdivl.md) -/

/-- The regions of a VDIVL come from the low halves of its seven operand registers, and no register is written (R200). -/
def Obligations.VdivlOperands : Prop :=
  ∀ (rnd : Bool) (rq rx ry : Reg) (rr : Option Reg) (rw rnx rny : Reg) (s : State),
    let u (r : Reg) : Nat := ((s.reg r).setWidth 32).toNat
    s.vdivlRegions rq rx ry rr rw rnx rny
      = { x := ⟨u rx, u rnx⟩, y := ⟨u ry, u rny⟩, q := ⟨u rq, u rnx⟩
          r := rr.map (fun r => ⟨u r, u rny⟩), w := ⟨u rw, 4 * u rnx + 2 * u rny + 2⟩ }
    ∧ ∀ s', exec (.vdivl rnd rq rx ry rr rw rnx rny) s = .next s' → s'.regs = s.regs

/-- A region that is not inside M is MEMFAULT with code 0, in test mode too and whatever overlaps, with nothing written; and
MEMFAULT has no other ground (R201, R202; 60_exceptions.md R236). The model's choice (log 9, DEDUCED): the name of the refusal, and that
with `wr` = 0 there is no Rm, so that items 3 and 4 of R202 then say nothing of one. -/
def Obligations.VdivlChecksRegionsFirst : Prop :=
  ∀ (rnd : Bool) (rq rx ry : Reg) (rr : Option Reg) (rw rnx rny : Reg) (s : State),
    let g := s.vdivlRegions rq rx ry rr rw rnx rny
    (¬regionsInside s g → exec (.vdivl rnd rq rx ry rr rw rnx rny) s = .next (haltedBy s .memFault 0 0x50))
    ∧ (regionsInside s g → ¬arrangement g → exec (.vdivl rnd rq rx ry rr rw rnx rny) s = .refused .vdivlOverlap)
    ∧ (regionsInside s g → arrangement g →
        ∃ s', exec (.vdivl rnd rq rx ry rr rw rnx rny) s = .next s' ∧ s'.cc = s.cc + 1 ∧ s'.runState = s.runState)

/-- The quotient and remainder left in M, for operands other than 0: `X = Q * Y + R` with `R < Y`, Q incremented where rounding was
asked for and `2 * R >= Y`, R that of the unrounded division (R203, R205). -/
def Obligations.VdivlDividesTheVectors : Prop :=
  ∀ (rnd : Bool) (rq rx ry : Reg) (rr : Option Reg) (rw rnx rny : Reg) (s : State),
    let g := s.vdivlRegions rq rx ry rr rw rnx rny
    let msd := s.params.vecMsdFirst
    let xv := vecValue msd s.mem g.x
    let yv := vecValue msd s.mem g.y
    regionsInside s g → arrangement g → xv ≠ 0 → yv ≠ 0 →
    ∃ s' q r, exec (.vdivl rnd rq rx ry rr rw rnx rny) s = .next s'
      ∧ xv = q * yv + r ∧ r < yv
      ∧ vecValue msd s'.mem g.q = (if rnd = true ∧ yv ≤ 2 * r then q + 1 else q)
      ∧ ∀ m, g.r = some m → vecValue msd s'.mem m = r

/-- A zero divisor or a zero dividend, a vector of length 0 among them, gives an all-zero quotient and remainder, with no error and no
event, in either mode (R204). -/
def Obligations.VdivlZeroOperand : Prop :=
  ∀ (rnd : Bool) (rq rx ry : Reg) (rr : Option Reg) (rw rnx rny : Reg) (s : State),
    let g := s.vdivlRegions rq rx ry rr rw rnx rny
    let msd := s.params.vecMsdFirst
    regionsInside s g → arrangement g → vecValue msd s.mem g.x = 0 ∨ vecValue msd s.mem g.y = 0 →
    ∃ s', exec (.vdivl rnd rq rx ry rr rw rnx rny) s = .next s'
      ∧ s'.ev = s.ev ∧ s'.runState = s.runState ∧ s'.cc = s.cc + 1
      ∧ (∀ a, inside g.q a → s'.readWord a = 0)
      ∧ ∀ m, g.r = some m → ∀ a, inside m a → s'.readWord a = 0

/-- A VDIVL that answers a next state has either raised MEMFAULT, or has changed nothing but CC and words of its quotient, remainder and
scratch regions (and the model's counter of free values, log 6): no report, no other fatal, no event; and it does the same in
either test mode (R207; R206). -/
def Obligations.VdivlFrame : Prop :=
  ∀ (rnd : Bool) (rq rx ry : Reg) (rr : Option Reg) (rw rnx rny : Reg) (s s' : State),
    let g := s.vdivlRegions rq rx ry rr rw rnx rny
    exec (.vdivl rnd rq rx ry rr rw rnx rny) s = .next s' →
    (s' = haltedBy s .memFault 0 0x50
      ∨ (s' = { s with mem := s'.mem, draws := s'.draws, cc := s.cc + 1 }
        ∧ ∀ a, ¬inside g.q a → ¬inside g.w a → (∀ m, g.r = some m → ¬inside m a) → s'.readWord a = s.readWord a))
    ∧ ∀ b, exec (.vdivl rnd rq rx ry rr rw rnx rny) { s with tm := b } = .next { s' with tm := b }

/-- The previous contents of the scratch region do not influence the quotient or the remainder: two runs from states that
differ in scratch words and in the free values to come only (R206). -/
def Obligations.VdivlIgnoresScratch : Prop :=
  ∀ (rnd : Bool) (rq rx ry : Reg) (rr : Option Reg) (rw rnx rny : Reg) (s u s' : State),
    let g := s.vdivlRegions rq rx ry rr rw rnx rny
    u = { s with mem := u.mem, draws := u.draws } → (∀ a, ¬inside g.w a → u.readWord a = s.readWord a) →
    exec (.vdivl rnd rq rx ry rr rw rnx rny) s = .next s' → regionsInside s g →
    ∃ u', exec (.vdivl rnd rq rx ry rr rw rnx rny) u = .next u' ∧ ∀ a, ¬inside g.w a → u'.readWord a = s'.readWord a
end

