-- ==== Sys2Proof/Laws/Encoding.lean ====
section
/-! SUPPORT. The three formats as bijections between words and fields (30_encoding.md R71 to R73, R85). -/

namespace Sys2Proof

/-- Two neighbouring slices of a word are one slice. -/
theorem slices_join {w : InstrWord} (a la b lb : Nat) (h : a = b + lb) :
    w.extractLsb' a la ++ w.extractLsb' b lb = w.extractLsb' b (la + lb) :=
  BitVec.extractLsb'_append_extractLsb'_eq_extractLsb' h

/-- Format A: the fields of a word written from fields are those fields. -/
@[simp] theorem fieldsA_wordA (f : FieldsA) : fieldsA (wordA f) = f := by
  cases f
  simp (disch := omega) only [fieldsA, wordA, BitVec.extractLsb'_append_eq_of_add_le,
    BitVec.extractLsb'_append_eq_of_le, BitVec.extractLsb'_eq_self, Nat.sub_self, Nat.reduceSub]

/-- Format A: the word of the fields of a word is that word. -/
@[simp] theorem wordA_fieldsA (w : InstrWord) : wordA (fieldsA w) = w := by
  unfold wordA fieldsA
  simp only []
  rw [slices_join 60 4 59 1 rfl, slices_join 59 5 56 3 rfl, slices_join 56 8 32 24 rfl,
    slices_join 32 32 28 4 rfl, slices_join 28 36 24 4 rfl, slices_join 24 40 20 4 rfl,
    slices_join 20 44 16 4 rfl, slices_join 16 48 12 4 rfl, slices_join 12 52 10 2 rfl,
    slices_join 10 54 9 1 rfl, slices_join 9 55 8 1 rfl, slices_join 8 56 0 8 rfl, BitVec.extractLsb'_eq_self]

/-- Format A: the opcode is the low byte. -/
@[simp] theorem opcOf_wordA (f : FieldsA) : opcOf (wordA f) = f.opc := by
  simp (disch := omega) only [opcOf, wordA, BitVec.extractLsb'_append_eq_of_add_le, BitVec.extractLsb'_eq_self]

/-- Format P: the fields of a word written from fields are those fields. -/
@[simp] theorem fieldsP_wordP (f : FieldsP) : fieldsP (wordP f) = f := by
  cases f
  simp (disch := omega) only [fieldsP, wordP, BitVec.extractLsb'_append_eq_of_add_le,
    BitVec.extractLsb'_append_eq_of_le, BitVec.extractLsb'_eq_self, Nat.sub_self, Nat.reduceSub]

/-- Format P: the word of the fields of a word is that word. -/
@[simp] theorem wordP_fieldsP (w : InstrWord) : wordP (fieldsP w) = w := by
  unfold wordP fieldsP
  simp only []
  rw [slices_join 59 5 56 3 rfl, slices_join 56 8 32 24 rfl, slices_join 32 32 20 12 rfl,
    slices_join 20 44 16 4 rfl, slices_join 16 48 12 4 rfl, slices_join 12 52 8 4 rfl,
    slices_join 8 56 0 8 rfl, BitVec.extractLsb'_eq_self]

/-- Format P: the opcode is the low byte. -/
@[simp] theorem opcOf_wordP (f : FieldsP) : opcOf (wordP f) = f.opc := by
  simp (disch := omega) only [opcOf, wordP, BitVec.extractLsb'_append_eq_of_add_le, BitVec.extractLsb'_eq_self]

/-- Format V: the fields of a word written from fields are those fields. -/
@[simp] theorem fieldsV_wordV (f : FieldsV) : fieldsV (wordV f) = f := by
  cases f
  simp (disch := omega) only [fieldsV, wordV, BitVec.extractLsb'_append_eq_of_add_le,
    BitVec.extractLsb'_append_eq_of_le, BitVec.extractLsb'_eq_self, Nat.sub_self, Nat.reduceSub]

/-- Format V: the word of the fields of a word is that word. -/
@[simp] theorem wordV_fieldsV (w : InstrWord) : wordV (fieldsV w) = w := by
  unfold wordV fieldsV
  simp only []
  rw [slices_join 40 24 36 4 rfl, slices_join 36 28 32 4 rfl, slices_join 32 32 28 4 rfl,
    slices_join 28 36 24 4 rfl, slices_join 24 40 20 4 rfl, slices_join 20 44 16 4 rfl,
    slices_join 16 48 12 4 rfl, slices_join 12 52 10 2 rfl, slices_join 10 54 9 1 rfl,
    slices_join 9 55 8 1 rfl, slices_join 8 56 0 8 rfl, BitVec.extractLsb'_eq_self]

/-- Format V: the opcode is the low byte. -/
@[simp] theorem opcOf_wordV (f : FieldsV) : opcOf (wordV f) = f.opc := by
  simp (disch := omega) only [opcOf, wordV, BitVec.extractLsb'_append_eq_of_add_le, BitVec.extractLsb'_eq_self]

/-- The low byte of every instruction's word is its opcode (R70, R79). -/
@[simp] theorem opcOf_encode (i : Instr) : opcOf (encode i) = i.opcode := by
  cases i <;> simp [encode, encA, encP, encDivm, Instr.opcode]

/-! ### Parts of the decoder -/

@[simp] theorem ok_bind {α β ε : Type} (a : α) (f : α → Except ε β) : (Except.ok a >>= f) = f a := rfl

@[simp] theorem error_bind {α β ε : Type} (e : ε) (f : α → Except ε β) :
    ((Except.error e : Except ε α) >>= f) = Except.error e := rfl

/-- A word of Format A is decoded as one. -/
theorem decode_wordA (f : FieldsA) (hp : ¬(1 ≤ f.opc.toNat ∧ f.opc.toNat ≤ 7)) (hv : f.opc ≠ 0x50#8) :
    decode (wordA f) = decodeA f := by
  simp [decode, hp, hv]

/-- A word of Format P is decoded as one. -/
theorem decode_wordP (f : FieldsP) (hp : 1 ≤ f.opc.toNat ∧ f.opc.toNat ≤ 7) : decode (wordP f) = decodeP f := by
  simp [decode, hp]

/-- A word of Format V is decoded as one. -/
theorem decode_wordV (f : FieldsV) (hv : f.opc = 0x50#8) : decode (wordV f) = decodeV f := by
  simp [decode, hv]

/-- The type that a type's bits select. -/
theorem tyOf_of_bits {t : Ty} {f : FieldsA} (hu : f.u = uBit t) (hd : f.d = dBit t) : tyOf f = t := by
  cases t <;> simp [tyOf, hu, hd, uBit, dBit]

/-- The error-code field that its selector and code stand for. -/
theorem ecfOf_bits (e : Ecf) : ecfOf (selBits e.override) e.code = .ok e := by
  have h : overrideOf (selBits e.override) = .ok e.override := by
    rcases e.override with _ | _ | _ <;> rfl
  simp [ecfOf, h]

/-- The checked level that its bits stand for. -/
theorem checkedOf_bits {f : FieldsA} (c : Checked) (hc : f.chk = chkBits (.checked c))
    (hd : f.code = codeBits (.checked c)) (hs : f.sel = selOfLevel (.checked c)) : checkedOf f = .ok c := by
  cases c <;> simp [checkedOf, requireNoCode, require, hc, hd, hs, chkBits, codeBits, selOfLevel, ecfOf_bits]

/-- The level that its bits stand for. -/
theorem levelOf_bits {f : FieldsA} (l : Level) (hc : f.chk = chkBits l) (hd : f.code = codeBits l)
    (hs : f.sel = selOfLevel l) : levelOf f = .ok l := by
  cases l with
  | unchecked => simp [levelOf, requireNoCode, require, hc, hd, hs, chkBits, codeBits, selOfLevel]
  | checked c =>
    have h0 : f.chk ≠ 0#2 := by
      rw [hc]
      cases c <;> simp [chkBits]
    simp [levelOf, h0, checkedOf_bits c hc hd hs]

end Sys2Proof
end

