-- ==== Sys2Proof/Laws/State.lean ====
section
/-! SUPPORT. What each update of the state leaves and what it sets, one lemma per field. -/

namespace Sys2Proof.Machine

/-! ### setReg -/

@[simp] theorem State.setReg_regs (s : State) (r : Reg) (v : Dword) : (s.setReg r v).regs = s.regs.set r.toNat v r.isLt := rfl
@[simp] theorem State.setReg_cc (s : State) (r : Reg) (v : Dword) : (s.setReg r v).cc = s.cc := rfl
@[simp] theorem State.setReg_ps (s : State) (r : Reg) (v : Dword) : (s.setReg r v).ps = s.ps := rfl
@[simp] theorem State.setReg_psp (s : State) (r : Reg) (v : Dword) : (s.setReg r v).psp = s.psp := rfl
@[simp] theorem State.setReg_dec (s : State) (r : Reg) (v : Dword) : (s.setReg r v).dec = s.dec := rfl
@[simp] theorem State.setReg_tm (s : State) (r : Reg) (v : Dword) : (s.setReg r v).tm = s.tm := rfl
@[simp] theorem State.setReg_runState (s : State) (r : Reg) (v : Dword) : (s.setReg r v).runState = s.runState := rfl
@[simp] theorem State.setReg_hcause (s : State) (r : Reg) (v : Dword) : (s.setReg r v).hcause = s.hcause := rfl
@[simp] theorem State.setReg_hcc (s : State) (r : Reg) (v : Dword) : (s.setReg r v).hcc = s.hcc := rfl
@[simp] theorem State.setReg_hop (s : State) (r : Reg) (v : Dword) : (s.setReg r v).hop = s.hop := rfl
@[simp] theorem State.setReg_hec (s : State) (r : Reg) (v : Dword) : (s.setReg r v).hec = s.hec := rfl
@[simp] theorem State.setReg_pend (s : State) (r : Reg) (v : Dword) : (s.setReg r v).pend = s.pend := rfl
@[simp] theorem State.setReg_ev (s : State) (r : Reg) (v : Dword) : (s.setReg r v).ev = s.ev := rfl
@[simp] theorem State.setReg_mem (s : State) (r : Reg) (v : Dword) : (s.setReg r v).mem = s.mem := rfl
@[simp] theorem State.setReg_params (s : State) (r : Reg) (v : Dword) : (s.setReg r v).params = s.params := rfl
@[simp] theorem State.setReg_input (s : State) (r : Reg) (v : Dword) : (s.setReg r v).input = s.input := rfl
@[simp] theorem State.setReg_replies (s : State) (r : Reg) (v : Dword) : (s.setReg r v).replies = s.replies := rfl
@[simp] theorem State.setReg_draws (s : State) (r : Reg) (v : Dword) : (s.setReg r v).draws = s.draws := rfl

/-! ### stepCC -/

@[simp] theorem State.stepCC_regs (s : State) : (s.stepCC).regs = s.regs := rfl
@[simp] theorem State.stepCC_cc (s : State) : (s.stepCC).cc = s.cc + 1 := rfl
@[simp] theorem State.stepCC_ps (s : State) : (s.stepCC).ps = s.ps := rfl
@[simp] theorem State.stepCC_psp (s : State) : (s.stepCC).psp = s.psp := rfl
@[simp] theorem State.stepCC_dec (s : State) : (s.stepCC).dec = s.dec := rfl
@[simp] theorem State.stepCC_tm (s : State) : (s.stepCC).tm = s.tm := rfl
@[simp] theorem State.stepCC_runState (s : State) : (s.stepCC).runState = s.runState := rfl
@[simp] theorem State.stepCC_hcause (s : State) : (s.stepCC).hcause = s.hcause := rfl
@[simp] theorem State.stepCC_hcc (s : State) : (s.stepCC).hcc = s.hcc := rfl
@[simp] theorem State.stepCC_hop (s : State) : (s.stepCC).hop = s.hop := rfl
@[simp] theorem State.stepCC_hec (s : State) : (s.stepCC).hec = s.hec := rfl
@[simp] theorem State.stepCC_pend (s : State) : (s.stepCC).pend = s.pend := rfl
@[simp] theorem State.stepCC_ev (s : State) : (s.stepCC).ev = s.ev := rfl
@[simp] theorem State.stepCC_mem (s : State) : (s.stepCC).mem = s.mem := rfl
@[simp] theorem State.stepCC_params (s : State) : (s.stepCC).params = s.params := rfl
@[simp] theorem State.stepCC_input (s : State) : (s.stepCC).input = s.input := rfl
@[simp] theorem State.stepCC_replies (s : State) : (s.stepCC).replies = s.replies := rfl
@[simp] theorem State.stepCC_draws (s : State) : (s.stepCC).draws = s.draws := rfl

/-! ### log -/

@[simp] theorem State.log_regs (s : State) (e : Event) : (s.log e).regs = s.regs := rfl
@[simp] theorem State.log_cc (s : State) (e : Event) : (s.log e).cc = s.cc := rfl
@[simp] theorem State.log_ps (s : State) (e : Event) : (s.log e).ps = s.ps := rfl
@[simp] theorem State.log_psp (s : State) (e : Event) : (s.log e).psp = s.psp := rfl
@[simp] theorem State.log_dec (s : State) (e : Event) : (s.log e).dec = s.dec := rfl
@[simp] theorem State.log_tm (s : State) (e : Event) : (s.log e).tm = s.tm := rfl
@[simp] theorem State.log_runState (s : State) (e : Event) : (s.log e).runState = s.runState := rfl
@[simp] theorem State.log_hcause (s : State) (e : Event) : (s.log e).hcause = s.hcause := rfl
@[simp] theorem State.log_hcc (s : State) (e : Event) : (s.log e).hcc = s.hcc := rfl
@[simp] theorem State.log_hop (s : State) (e : Event) : (s.log e).hop = s.hop := rfl
@[simp] theorem State.log_hec (s : State) (e : Event) : (s.log e).hec = s.hec := rfl
@[simp] theorem State.log_pend (s : State) (e : Event) : (s.log e).pend = s.pend := rfl
@[simp] theorem State.log_ev (s : State) (e : Event) : (s.log e).ev = s.ev ++ [e] := rfl
@[simp] theorem State.log_mem (s : State) (e : Event) : (s.log e).mem = s.mem := rfl
@[simp] theorem State.log_params (s : State) (e : Event) : (s.log e).params = s.params := rfl
@[simp] theorem State.log_input (s : State) (e : Event) : (s.log e).input = s.input := rfl
@[simp] theorem State.log_replies (s : State) (e : Event) : (s.log e).replies = s.replies := rfl
@[simp] theorem State.log_draws (s : State) (e : Event) : (s.log e).draws = s.draws := rfl

/-! ### writeWord -/

@[simp] theorem State.writeWord_regs (s : State) (a : Nat) (v : Word) : (s.writeWord a v).regs = s.regs := rfl
@[simp] theorem State.writeWord_cc (s : State) (a : Nat) (v : Word) : (s.writeWord a v).cc = s.cc := rfl
@[simp] theorem State.writeWord_ps (s : State) (a : Nat) (v : Word) : (s.writeWord a v).ps = s.ps := rfl
@[simp] theorem State.writeWord_psp (s : State) (a : Nat) (v : Word) : (s.writeWord a v).psp = s.psp := rfl
@[simp] theorem State.writeWord_dec (s : State) (a : Nat) (v : Word) : (s.writeWord a v).dec = s.dec := rfl
@[simp] theorem State.writeWord_tm (s : State) (a : Nat) (v : Word) : (s.writeWord a v).tm = s.tm := rfl
@[simp] theorem State.writeWord_runState (s : State) (a : Nat) (v : Word) : (s.writeWord a v).runState = s.runState := rfl
@[simp] theorem State.writeWord_hcause (s : State) (a : Nat) (v : Word) : (s.writeWord a v).hcause = s.hcause := rfl
@[simp] theorem State.writeWord_hcc (s : State) (a : Nat) (v : Word) : (s.writeWord a v).hcc = s.hcc := rfl
@[simp] theorem State.writeWord_hop (s : State) (a : Nat) (v : Word) : (s.writeWord a v).hop = s.hop := rfl
@[simp] theorem State.writeWord_hec (s : State) (a : Nat) (v : Word) : (s.writeWord a v).hec = s.hec := rfl
@[simp] theorem State.writeWord_pend (s : State) (a : Nat) (v : Word) : (s.writeWord a v).pend = s.pend := rfl
@[simp] theorem State.writeWord_ev (s : State) (a : Nat) (v : Word) : (s.writeWord a v).ev = s.ev := rfl
@[simp] theorem State.writeWord_mem (s : State) (a : Nat) (v : Word) : (s.writeWord a v).mem = memInsert s.mem a v := rfl
@[simp] theorem State.writeWord_params (s : State) (a : Nat) (v : Word) : (s.writeWord a v).params = s.params := rfl
@[simp] theorem State.writeWord_input (s : State) (a : Nat) (v : Word) : (s.writeWord a v).input = s.input := rfl
@[simp] theorem State.writeWord_replies (s : State) (a : Nat) (v : Word) : (s.writeWord a v).replies = s.replies := rfl
@[simp] theorem State.writeWord_draws (s : State) (a : Nat) (v : Word) : (s.writeWord a v).draws = s.draws := rfl

/-! ### setCurrent -/

@[simp] theorem State.setCurrent_regs (s : State) (r : PolicyRecord) : (s.setCurrent r).regs = s.regs := rfl
@[simp] theorem State.setCurrent_cc (s : State) (r : PolicyRecord) : (s.setCurrent r).cc = s.cc := rfl
@[simp] theorem State.setCurrent_ps (s : State) (r : PolicyRecord) : (s.setCurrent r).ps = s.ps.set s.psp.val r s.psp.isLt := rfl
@[simp] theorem State.setCurrent_psp (s : State) (r : PolicyRecord) : (s.setCurrent r).psp = s.psp := rfl
@[simp] theorem State.setCurrent_dec (s : State) (r : PolicyRecord) : (s.setCurrent r).dec = s.dec := rfl
@[simp] theorem State.setCurrent_tm (s : State) (r : PolicyRecord) : (s.setCurrent r).tm = s.tm := rfl
@[simp] theorem State.setCurrent_runState (s : State) (r : PolicyRecord) : (s.setCurrent r).runState = s.runState := rfl
@[simp] theorem State.setCurrent_hcause (s : State) (r : PolicyRecord) : (s.setCurrent r).hcause = s.hcause := rfl
@[simp] theorem State.setCurrent_hcc (s : State) (r : PolicyRecord) : (s.setCurrent r).hcc = s.hcc := rfl
@[simp] theorem State.setCurrent_hop (s : State) (r : PolicyRecord) : (s.setCurrent r).hop = s.hop := rfl
@[simp] theorem State.setCurrent_hec (s : State) (r : PolicyRecord) : (s.setCurrent r).hec = s.hec := rfl
@[simp] theorem State.setCurrent_pend (s : State) (r : PolicyRecord) : (s.setCurrent r).pend = s.pend := rfl
@[simp] theorem State.setCurrent_ev (s : State) (r : PolicyRecord) : (s.setCurrent r).ev = s.ev := rfl
@[simp] theorem State.setCurrent_mem (s : State) (r : PolicyRecord) : (s.setCurrent r).mem = s.mem := rfl
@[simp] theorem State.setCurrent_params (s : State) (r : PolicyRecord) : (s.setCurrent r).params = s.params := rfl
@[simp] theorem State.setCurrent_input (s : State) (r : PolicyRecord) : (s.setCurrent r).input = s.input := rfl
@[simp] theorem State.setCurrent_replies (s : State) (r : PolicyRecord) : (s.setCurrent r).replies = s.replies := rfl
@[simp] theorem State.setCurrent_draws (s : State) (r : PolicyRecord) : (s.setCurrent r).draws = s.draws := rfl

/-! ### enterHalted -/

@[simp] theorem State.enterHalted_regs (s : State) (c : Cause) (ec : Code) (o : Opc) : (s.enterHalted c ec o).regs = s.regs := rfl
@[simp] theorem State.enterHalted_cc (s : State) (c : Cause) (ec : Code) (o : Opc) : (s.enterHalted c ec o).cc = s.cc := rfl
@[simp] theorem State.enterHalted_ps (s : State) (c : Cause) (ec : Code) (o : Opc) : (s.enterHalted c ec o).ps = s.ps := rfl
@[simp] theorem State.enterHalted_psp (s : State) (c : Cause) (ec : Code) (o : Opc) : (s.enterHalted c ec o).psp = s.psp := rfl
@[simp] theorem State.enterHalted_dec (s : State) (c : Cause) (ec : Code) (o : Opc) : (s.enterHalted c ec o).dec = s.dec := rfl
@[simp] theorem State.enterHalted_tm (s : State) (c : Cause) (ec : Code) (o : Opc) : (s.enterHalted c ec o).tm = s.tm := rfl
@[simp] theorem State.enterHalted_runState (s : State) (c : Cause) (ec : Code) (o : Opc) : (s.enterHalted c ec o).runState = .halted := rfl
@[simp] theorem State.enterHalted_hcause (s : State) (c : Cause) (ec : Code) (o : Opc) : (s.enterHalted c ec o).hcause = c := rfl
@[simp] theorem State.enterHalted_hcc (s : State) (c : Cause) (ec : Code) (o : Opc) : (s.enterHalted c ec o).hcc = s.cc := rfl
@[simp] theorem State.enterHalted_hop (s : State) (c : Cause) (ec : Code) (o : Opc) : (s.enterHalted c ec o).hop = o := rfl
@[simp] theorem State.enterHalted_hec (s : State) (c : Cause) (ec : Code) (o : Opc) : (s.enterHalted c ec o).hec = ec := rfl
@[simp] theorem State.enterHalted_pend (s : State) (c : Cause) (ec : Code) (o : Opc) : (s.enterHalted c ec o).pend = s.pend := rfl
@[simp] theorem State.enterHalted_ev (s : State) (c : Cause) (ec : Code) (o : Opc) : (s.enterHalted c ec o).ev = s.ev := rfl
@[simp] theorem State.enterHalted_mem (s : State) (c : Cause) (ec : Code) (o : Opc) : (s.enterHalted c ec o).mem = s.mem := rfl
@[simp] theorem State.enterHalted_params (s : State) (c : Cause) (ec : Code) (o : Opc) : (s.enterHalted c ec o).params = s.params := rfl
@[simp] theorem State.enterHalted_input (s : State) (c : Cause) (ec : Code) (o : Opc) : (s.enterHalted c ec o).input = s.input := rfl
@[simp] theorem State.enterHalted_replies (s : State) (c : Cause) (ec : Code) (o : Opc) : (s.enterHalted c ec o).replies = s.replies := rfl
@[simp] theorem State.enterHalted_draws (s : State) (c : Cause) (ec : Code) (o : Opc) : (s.enterHalted c ec o).draws = s.draws := rfl

/-! ### halt -/

@[simp] theorem State.halt_regs (s : State) (c : Cause) (ec : Code) (o : Opc) : (s.halt c ec o).regs = s.regs := rfl
@[simp] theorem State.halt_cc (s : State) (c : Cause) (ec : Code) (o : Opc) : (s.halt c ec o).cc = s.cc := rfl
@[simp] theorem State.halt_ps (s : State) (c : Cause) (ec : Code) (o : Opc) : (s.halt c ec o).ps = s.ps := rfl
@[simp] theorem State.halt_psp (s : State) (c : Cause) (ec : Code) (o : Opc) : (s.halt c ec o).psp = s.psp := rfl
@[simp] theorem State.halt_dec (s : State) (c : Cause) (ec : Code) (o : Opc) : (s.halt c ec o).dec = s.dec := rfl
@[simp] theorem State.halt_tm (s : State) (c : Cause) (ec : Code) (o : Opc) : (s.halt c ec o).tm = s.tm := rfl
@[simp] theorem State.halt_runState (s : State) (c : Cause) (ec : Code) (o : Opc) : (s.halt c ec o).runState = .halted := rfl
@[simp] theorem State.halt_hcause (s : State) (c : Cause) (ec : Code) (o : Opc) : (s.halt c ec o).hcause = c := rfl
@[simp] theorem State.halt_hcc (s : State) (c : Cause) (ec : Code) (o : Opc) : (s.halt c ec o).hcc = s.cc := rfl
@[simp] theorem State.halt_hop (s : State) (c : Cause) (ec : Code) (o : Opc) : (s.halt c ec o).hop = o := rfl
@[simp] theorem State.halt_hec (s : State) (c : Cause) (ec : Code) (o : Opc) : (s.halt c ec o).hec = ec := rfl
@[simp] theorem State.halt_pend (s : State) (c : Cause) (ec : Code) (o : Opc) : (s.halt c ec o).pend = s.pend := rfl
@[simp] theorem State.halt_ev (s : State) (c : Cause) (ec : Code) (o : Opc) : (s.halt c ec o).ev = s.ev ++ [.msg c s.cc o ec true] := rfl
@[simp] theorem State.halt_mem (s : State) (c : Cause) (ec : Code) (o : Opc) : (s.halt c ec o).mem = s.mem := rfl
@[simp] theorem State.halt_params (s : State) (c : Cause) (ec : Code) (o : Opc) : (s.halt c ec o).params = s.params := rfl
@[simp] theorem State.halt_input (s : State) (c : Cause) (ec : Code) (o : Opc) : (s.halt c ec o).input = s.input := rfl
@[simp] theorem State.halt_replies (s : State) (c : Cause) (ec : Code) (o : Opc) : (s.halt c ec o).replies = s.replies := rfl
@[simp] theorem State.halt_draws (s : State) (c : Cause) (ec : Code) (o : Opc) : (s.halt c ec o).draws = s.draws := rfl

/-! ### answer -/

@[simp] theorem State.answer_regs (s : State) (r : HostReply) : (s.answer r).regs = s.regs := rfl
@[simp] theorem State.answer_cc (s : State) (r : HostReply) : (s.answer r).cc = s.cc := rfl
@[simp] theorem State.answer_ps (s : State) (r : HostReply) : (s.answer r).ps = s.ps := rfl
@[simp] theorem State.answer_psp (s : State) (r : HostReply) : (s.answer r).psp = s.psp := rfl
@[simp] theorem State.answer_dec (s : State) (r : HostReply) : (s.answer r).dec = s.dec := rfl
@[simp] theorem State.answer_tm (s : State) (r : HostReply) : (s.answer r).tm = s.tm := rfl
@[simp] theorem State.answer_runState (s : State) (r : HostReply) : (s.answer r).runState = s.runState := rfl
@[simp] theorem State.answer_hcause (s : State) (r : HostReply) : (s.answer r).hcause = s.hcause := rfl
@[simp] theorem State.answer_hcc (s : State) (r : HostReply) : (s.answer r).hcc = s.hcc := rfl
@[simp] theorem State.answer_hop (s : State) (r : HostReply) : (s.answer r).hop = s.hop := rfl
@[simp] theorem State.answer_hec (s : State) (r : HostReply) : (s.answer r).hec = s.hec := rfl
@[simp] theorem State.answer_pend (s : State) (r : HostReply) : (s.answer r).pend = s.pend := rfl
@[simp] theorem State.answer_ev (s : State) (r : HostReply) : (s.answer r).ev = s.ev := rfl
@[simp] theorem State.answer_mem (s : State) (r : HostReply) : (s.answer r).mem = s.mem := rfl
@[simp] theorem State.answer_params (s : State) (r : HostReply) : (s.answer r).params = s.params := rfl
@[simp] theorem State.answer_input (s : State) (r : HostReply) : (s.answer r).input = s.input := rfl
@[simp] theorem State.answer_replies (s : State) (r : HostReply) : (s.answer r).replies = s.replies ++ [r] := rfl
@[simp] theorem State.answer_draws (s : State) (r : HostReply) : (s.answer r).draws = s.draws := rfl

/-! ### resetUnit -/

@[simp] theorem State.resetUnit_regs (s : State) : (s.resetUnit).regs = State.reset.regs := rfl
@[simp] theorem State.resetUnit_cc (s : State) : (s.resetUnit).cc = State.reset.cc := rfl
@[simp] theorem State.resetUnit_ps (s : State) : (s.resetUnit).ps = State.reset.ps := rfl
@[simp] theorem State.resetUnit_psp (s : State) : (s.resetUnit).psp = State.reset.psp := rfl
@[simp] theorem State.resetUnit_dec (s : State) : (s.resetUnit).dec = State.reset.dec := rfl
@[simp] theorem State.resetUnit_tm (s : State) : (s.resetUnit).tm = State.reset.tm := rfl
@[simp] theorem State.resetUnit_runState (s : State) : (s.resetUnit).runState = State.reset.runState := rfl
@[simp] theorem State.resetUnit_hcause (s : State) : (s.resetUnit).hcause = State.reset.hcause := rfl
@[simp] theorem State.resetUnit_hcc (s : State) : (s.resetUnit).hcc = State.reset.hcc := rfl
@[simp] theorem State.resetUnit_hop (s : State) : (s.resetUnit).hop = State.reset.hop := rfl
@[simp] theorem State.resetUnit_hec (s : State) : (s.resetUnit).hec = State.reset.hec := rfl
@[simp] theorem State.resetUnit_pend (s : State) : (s.resetUnit).pend = State.reset.pend := rfl
@[simp] theorem State.resetUnit_ev (s : State) : (s.resetUnit).ev = State.reset.ev := rfl
@[simp] theorem State.resetUnit_mem (s : State) : (s.resetUnit).mem = s.mem := rfl
@[simp] theorem State.resetUnit_params (s : State) : (s.resetUnit).params = s.params := rfl
@[simp] theorem State.resetUnit_input (s : State) : (s.resetUnit).input = s.input := rfl
@[simp] theorem State.resetUnit_replies (s : State) : (s.resetUnit).replies = s.replies := rfl
@[simp] theorem State.resetUnit_draws (s : State) : (s.resetUnit).draws = s.draws := rfl

/-! ### Register writes and completion -/

@[simp] theorem State.writeRegs_nil (s : State) : s.writeRegs [] = s := rfl
@[simp] theorem State.writeRegs_cons (s : State) (w : RegWrite) (ws : List RegWrite) :
    s.writeRegs (w :: ws) = (s.setReg w.1 w.2).writeRegs ws := rfl

@[simp] theorem State.writeRegs_cc (ws : List RegWrite) (s : State) : (s.writeRegs ws).cc = s.cc := by
  induction ws generalizing s with
  | nil => rfl
  | cons w ws ih => simp [ih]

@[simp] theorem State.writeRegs_ps (ws : List RegWrite) (s : State) : (s.writeRegs ws).ps = s.ps := by
  induction ws generalizing s with
  | nil => rfl
  | cons w ws ih => simp [ih]

@[simp] theorem State.writeRegs_psp (ws : List RegWrite) (s : State) : (s.writeRegs ws).psp = s.psp := by
  induction ws generalizing s with
  | nil => rfl
  | cons w ws ih => simp [ih]

@[simp] theorem State.writeRegs_dec (ws : List RegWrite) (s : State) : (s.writeRegs ws).dec = s.dec := by
  induction ws generalizing s with
  | nil => rfl
  | cons w ws ih => simp [ih]

@[simp] theorem State.writeRegs_tm (ws : List RegWrite) (s : State) : (s.writeRegs ws).tm = s.tm := by
  induction ws generalizing s with
  | nil => rfl
  | cons w ws ih => simp [ih]

@[simp] theorem State.writeRegs_runState (ws : List RegWrite) (s : State) : (s.writeRegs ws).runState = s.runState := by
  induction ws generalizing s with
  | nil => rfl
  | cons w ws ih => simp [ih]

@[simp] theorem State.writeRegs_hcause (ws : List RegWrite) (s : State) : (s.writeRegs ws).hcause = s.hcause := by
  induction ws generalizing s with
  | nil => rfl
  | cons w ws ih => simp [ih]

@[simp] theorem State.writeRegs_hcc (ws : List RegWrite) (s : State) : (s.writeRegs ws).hcc = s.hcc := by
  induction ws generalizing s with
  | nil => rfl
  | cons w ws ih => simp [ih]

@[simp] theorem State.writeRegs_hop (ws : List RegWrite) (s : State) : (s.writeRegs ws).hop = s.hop := by
  induction ws generalizing s with
  | nil => rfl
  | cons w ws ih => simp [ih]

@[simp] theorem State.writeRegs_hec (ws : List RegWrite) (s : State) : (s.writeRegs ws).hec = s.hec := by
  induction ws generalizing s with
  | nil => rfl
  | cons w ws ih => simp [ih]

@[simp] theorem State.writeRegs_pend (ws : List RegWrite) (s : State) : (s.writeRegs ws).pend = s.pend := by
  induction ws generalizing s with
  | nil => rfl
  | cons w ws ih => simp [ih]

@[simp] theorem State.writeRegs_ev (ws : List RegWrite) (s : State) : (s.writeRegs ws).ev = s.ev := by
  induction ws generalizing s with
  | nil => rfl
  | cons w ws ih => simp [ih]

@[simp] theorem State.writeRegs_mem (ws : List RegWrite) (s : State) : (s.writeRegs ws).mem = s.mem := by
  induction ws generalizing s with
  | nil => rfl
  | cons w ws ih => simp [ih]

@[simp] theorem State.writeRegs_params (ws : List RegWrite) (s : State) : (s.writeRegs ws).params = s.params := by
  induction ws generalizing s with
  | nil => rfl
  | cons w ws ih => simp [ih]

@[simp] theorem State.writeRegs_input (ws : List RegWrite) (s : State) : (s.writeRegs ws).input = s.input := by
  induction ws generalizing s with
  | nil => rfl
  | cons w ws ih => simp [ih]

@[simp] theorem State.writeRegs_replies (ws : List RegWrite) (s : State) : (s.writeRegs ws).replies = s.replies := by
  induction ws generalizing s with
  | nil => rfl
  | cons w ws ih => simp [ih]

@[simp] theorem State.writeRegs_draws (ws : List RegWrite) (s : State) : (s.writeRegs ws).draws = s.draws := by
  induction ws generalizing s with
  | nil => rfl
  | cons w ws ih => simp [ih]

@[simp] theorem State.complete_cc (ws : List RegWrite) (s : State) : (s.complete ws).cc = s.cc + 1 := by
  simp [State.complete]

@[simp] theorem State.complete_ps (ws : List RegWrite) (s : State) : (s.complete ws).ps = s.ps := by
  simp [State.complete]

@[simp] theorem State.complete_psp (ws : List RegWrite) (s : State) : (s.complete ws).psp = s.psp := by
  simp [State.complete]

@[simp] theorem State.complete_dec (ws : List RegWrite) (s : State) : (s.complete ws).dec = s.dec := by
  simp [State.complete]

@[simp] theorem State.complete_tm (ws : List RegWrite) (s : State) : (s.complete ws).tm = s.tm := by
  simp [State.complete]

@[simp] theorem State.complete_runState (ws : List RegWrite) (s : State) : (s.complete ws).runState = s.runState := by
  simp [State.complete]

@[simp] theorem State.complete_hcause (ws : List RegWrite) (s : State) : (s.complete ws).hcause = s.hcause := by
  simp [State.complete]

@[simp] theorem State.complete_hcc (ws : List RegWrite) (s : State) : (s.complete ws).hcc = s.hcc := by
  simp [State.complete]

@[simp] theorem State.complete_hop (ws : List RegWrite) (s : State) : (s.complete ws).hop = s.hop := by
  simp [State.complete]

@[simp] theorem State.complete_hec (ws : List RegWrite) (s : State) : (s.complete ws).hec = s.hec := by
  simp [State.complete]

@[simp] theorem State.complete_pend (ws : List RegWrite) (s : State) : (s.complete ws).pend = s.pend := by
  simp [State.complete]

@[simp] theorem State.complete_ev (ws : List RegWrite) (s : State) : (s.complete ws).ev = s.ev := by
  simp [State.complete]

@[simp] theorem State.complete_mem (ws : List RegWrite) (s : State) : (s.complete ws).mem = s.mem := by
  simp [State.complete]

@[simp] theorem State.complete_params (ws : List RegWrite) (s : State) : (s.complete ws).params = s.params := by
  simp [State.complete]

@[simp] theorem State.complete_input (ws : List RegWrite) (s : State) : (s.complete ws).input = s.input := by
  simp [State.complete]

@[simp] theorem State.complete_replies (ws : List RegWrite) (s : State) : (s.complete ws).replies = s.replies := by
  simp [State.complete]

@[simp] theorem State.complete_draws (ws : List RegWrite) (s : State) : (s.complete ws).draws = s.draws := by
  simp [State.complete]

@[simp] theorem State.reg_setReg (s : State) (r q : Reg) (v : Dword) :
    (s.setReg r v).reg q = if r = q then v else s.reg q := by
  unfold State.reg State.setReg
  simp only [Vector.getElem_set]
  by_cases h : r = q
  · simp [h]
  · have h' : r.toNat ≠ q.toNat := fun e => h (BitVec.eq_of_toNat_eq e)
    simp [h, h']

@[simp] theorem State.reg_stepCC (s : State) (q : Reg) : s.stepCC.reg q = s.reg q := rfl

@[simp] theorem State.reg_log (s : State) (e : Event) (q : Reg) : (s.log e).reg q = s.reg q := rfl

@[simp] theorem State.reg_writeWord (s : State) (a : Nat) (v : Word) (q : Reg) : (s.writeWord a v).reg q = s.reg q := rfl

theorem State.complete_nil (s : State) : s.complete [] = s.stepCC := rfl

theorem State.complete_one (s : State) (r : Reg) (v : Dword) : s.complete [(r, v)] = (s.setReg r v).stepCC := rfl

theorem State.complete_two (s : State) (r q : Reg) (v u : Dword) :
    s.complete [(r, v), (q, u)] = ((s.setReg r v).setReg q u).stepCC := rfl

end Sys2Proof.Machine
end

