-- ==== Sys2Proof/Laws/Memory.lean ====
section
/-! SUPPORT. Every memory operation keeps the canonical form, and a read sees the latest write (20_memory.md R57). -/

namespace Sys2Proof.Machine

/-- An entry of a memory after a write is the new one or an old one. -/
theorem mem_memInsert {m : Memory} {a : Nat} {v : Word} {e : Nat × Word} (h : e ∈ memInsert m a v) :
    e = (a, v) ∨ e ∈ m := by
  induction m with
  | nil => simpa [memInsert] using h
  | cons p rest ih =>
    obtain ⟨b, w⟩ := p
    simp only [memInsert] at h
    split at h
    · simpa using h
    · split at h
      · rcases List.mem_cons.1 h with h | h
        · exact .inl h
        · exact .inr (List.mem_cons_of_mem _ h)
      · rcases List.mem_cons.1 h with h | h
        · exact .inr (by simp [h])
        · exact (ih h).imp id (List.mem_cons_of_mem _)

/-- A write keeps the canonical form. -/
theorem memInsert_wf {m : Memory} (h : m.wf) (a : Nat) (v : Word) : Memory.wf (memInsert m a v) := by
  induction m with
  | nil => simp [memInsert, Memory.wf]
  | cons p rest ih =>
    obtain ⟨b, w⟩ := p
    have hp := List.pairwise_cons.1 h
    simp only [memInsert]
    split
    · rename_i hab
      refine List.pairwise_cons.2 ⟨fun e he => ?_, h⟩
      rcases List.mem_cons.1 he with rfl | he
      · exact hab
      · exact Nat.lt_trans hab (hp.1 e he)
    · split
      · rename_i hab
        subst hab
        exact List.pairwise_cons.2 ⟨hp.1, hp.2⟩
      · rename_i h1 h2
        refine List.pairwise_cons.2 ⟨fun e he => ?_, ih hp.2⟩
        rcases mem_memInsert he with rfl | he
        · show b < a
          omega
        · exact hp.1 e he

/-- Looking up an address after a write. -/
@[simp] theorem memFind_memInsert (m : Memory) (a b : Nat) (v : Word) :
    memFind (memInsert m a v) b = if b = a then some v else memFind m b := by
  induction m with
  | nil => simp [memInsert, memFind]
  | cons p rest ih =>
    obtain ⟨c, w⟩ := p
    simp only [memInsert]
    split
    · simp [memFind]
    · split
      · rename_i h
        subst h
        simp only [memFind]
        split <;> simp_all
      · simp only [memFind, ih]
        split
        · rename_i h1 h2 h3
          have : b ≠ a := fun e => h2 (by omega)
          simp [this]
        · rfl

/-- A word after a write to any address. -/
@[simp] theorem memWord_memInsert (m : Memory) (a b : Nat) (v : Word) :
    memWord (memInsert m a v) b = if b = a then v else memWord m b := by
  by_cases h : b = a <;> simp [memWord, h]

/-- A write inside M lists only words inside M. -/
theorem memInsert_inside {m : Memory} {a n : Nat} {v : Word} (h : ∀ e ∈ m, e.1 < n) (ha : a < n) :
    ∀ e ∈ memInsert m a v, e.1 < n := by
  intro e he
  rcases mem_memInsert he with rfl | he
  · exact ha
  · exact h e he

/-- A run of writes, one for each element of a list, keeps the canonical form. -/
theorem foldl_memInsert_wf (f : Nat → Nat) (g : Nat → Word) (l : List Nat) {m : Memory} (h : m.wf) :
    Memory.wf (l.foldl (fun m i => memInsert m (f i) (g i)) m) := by
  induction l generalizing m with
  | nil => exact h
  | cons i l ih => exact ih (memInsert_wf h _ _)

/-- A run of writes inside M lists only words inside M. -/
theorem foldl_memInsert_inside (f : Nat → Nat) (g : Nat → Word) (l : List Nat) {n : Nat} {m : Memory}
    (h : ∀ e ∈ m, e.1 < n) (hf : ∀ i ∈ l, f i < n) :
    ∀ e ∈ l.foldl (fun m i => memInsert m (f i) (g i)) m, e.1 < n := by
  induction l generalizing m with
  | nil => exact h
  | cons i l ih =>
    exact ih (memInsert_inside h (hf i (by simp))) (fun j hj => hf j (List.mem_cons_of_mem _ hj))

/-- A run of writes leaves every other word alone. -/
theorem memWord_foldl_of_ne (f : Nat → Nat) (g : Nat → Word) (l : List Nat) (m : Memory) (b : Nat)
    (h : ∀ i ∈ l, f i ≠ b) : memWord (l.foldl (fun m i => memInsert m (f i) (g i)) m) b = memWord m b := by
  induction l generalizing m with
  | nil => rfl
  | cons i l ih =>
    rw [List.foldl_cons, ih _ (fun j hj => h j (List.mem_cons_of_mem _ hj)), memWord_memInsert, if_neg]
    exact fun e => h i (by simp) e.symm

/-- A run of writes to different addresses: each word holds what was written to it. -/
theorem memWord_foldl_of_mem (f : Nat → Nat) (g : Nat → Word) (l : List Nat) (m : Memory) (i : Nat) (hi : i ∈ l)
    (hinj : ∀ j ∈ l, f j = f i → j = i) : memWord (l.foldl (fun m i => memInsert m (f i) (g i)) m) (f i) = g i := by
  induction l generalizing m with
  | nil => exact absurd hi (by simp)
  | cons j l ih =>
    rw [List.foldl_cons]
    by_cases h : i ∈ l
    · exact ih _ h (fun k hk => hinj k (List.mem_cons_of_mem _ hk))
    · have hji : j = i := by
        rcases List.mem_cons.1 hi with e | e
        · exact e.symm
        · exact absurd e h
      subst hji
      rw [memWord_foldl_of_ne, memWord_memInsert, if_pos rfl]
      intro k hk e
      exact h ((hinj k (List.mem_cons_of_mem _ hk) e) ▸ hk)

/-- The address of a digit lies in its vector's region (R53). -/
theorem digitPos_lt {msd : Bool} {n i : Nat} (h : i < n) : digitPos msd n i < n := by
  unfold digitPos
  split <;> omega

/-- Different digits have different places (R53). -/
theorem digitPos_inj {msd : Bool} {n i j : Nat} (hi : i < n) (hj : j < n) (h : digitPos msd n i = digitPos msd n j) :
    i = j := by
  unfold digitPos at h
  split at h <;> omega

/-- Writing a vector keeps the canonical form. -/
theorem vecPut_wf (msd : Bool) {m : Memory} (h : m.wf) (r : Region) (v : Nat) : Memory.wf (vecPut msd m r v) :=
  foldl_memInsert_wf _ _ _ h

/-- Writing a vector inside M lists only words inside M. -/
theorem vecPut_inside (msd : Bool) {m : Memory} {n : Nat} (h : ∀ e ∈ m, e.1 < n) (r : Region) (v : Nat)
    (hr : r.base + r.len ≤ n) : ∀ e ∈ vecPut msd m r v, e.1 < n := by
  refine foldl_memInsert_inside _ _ _ h (fun i hi => ?_)
  have := digitPos_lt (msd := msd) (List.mem_range.1 hi)
  omega

/-- Writing a vector leaves every word outside its region alone. -/
theorem memWord_vecPut_of_ne (msd : Bool) (m : Memory) (r : Region) (v b : Nat) (h : b < r.base ∨ r.base + r.len ≤ b) :
    memWord (vecPut msd m r v) b = memWord m b := by
  refine memWord_foldl_of_ne _ _ _ _ _ (fun i hi => ?_)
  have := digitPos_lt (msd := msd) (List.mem_range.1 hi)
  omega

/-- Scratch words keep the canonical form. -/
theorem scribble_wf {s : State} (h : s.mem.wf) (r : Region) : Memory.wf (s.scribble r).mem :=
  foldl_memInsert_wf _ _ _ h

/-- Scratch words inside M list only words inside M. -/
theorem scribble_inside {s : State} {n : Nat} (h : ∀ e ∈ s.mem, e.1 < n) (r : Region) (hr : r.base + r.len ≤ n) :
    ∀ e ∈ (s.scribble r).mem, e.1 < n := by
  refine foldl_memInsert_inside _ _ _ h (fun i hi => ?_)
  have := List.mem_range.1 hi
  omega

/-- Scratch words leave every word outside the region alone. -/
theorem memWord_scribble_of_ne (s : State) (r : Region) (b : Nat) (h : b < r.base ∨ r.base + r.len ≤ b) :
    memWord (s.scribble r).mem b = memWord s.mem b := by
  refine memWord_foldl_of_ne _ _ _ _ _ (fun i hi => ?_)
  have := List.mem_range.1 hi
  omega

/-- The memory of the reset state is in its canonical form. -/
theorem reset_mem_wf : Memory.wf State.reset.mem := List.Pairwise.nil

end Sys2Proof.Machine
end

