-- ==== Sys2Proof/Laws/Ops.lean ====
section
/-! SUPPORT. What each shared operation can do, said once: one lemma an operation, to be cited in place of its
definition. -/

namespace Sys2Proof.Machine

open Sys2Proof.Safety

/-! ### The fatal procedure (60_exceptions.md R232, R234) -/

/-- The fatal procedure returns, with the message, or the unit is halted. -/
theorem fatal_cases (c : Cause) (ec : Code) (opc : Opc) (s : State) :
    (s.tm = true ∧ c.suppressible = true ∧ fatal c ec opc s = .returned (s.log (.msg c s.cc opc ec false)))
    ∨ ((s.tm = false ∨ c.suppressible = false) ∧ fatal c ec opc s = .stopped (.next (s.halt c ec opc))) := by
  unfold fatal
  cases htm : s.tm <;> cases hc : c.suppressible <;> simp

/-- A cause that test mode does not cover halts the unit. -/
theorem fatal_of_not_suppressible {c : Cause} (h : c.suppressible = false) (ec : Code) (opc : Opc) (s : State) :
    fatal c ec opc s = .stopped (.next (s.halt c ec opc)) := by
  simp [fatal, h]

/-- Outside test mode every cause halts the unit. -/
theorem fatal_of_tm_false {s : State} (h : s.tm = false) (c : Cause) (ec : Code) (opc : Opc) :
    fatal c ec opc s = .stopped (.next (s.halt c ec opc)) := by
  simp [fatal, h]

/-- In test mode a covered cause logs and returns. -/
theorem fatal_of_tm_true {s : State} (h : s.tm = true) {c : Cause} (hc : c.suppressible = true) (ec : Code)
    (opc : Opc) : fatal c ec opc s = .returned (s.log (.msg c s.cc opc ec false)) := by
  simp [fatal, h, hc]

@[simp] theorem andThen_returned (s : State) (k : State → Result) : (Ended.returned s).andThen k = k s := rfl

@[simp] theorem andThen_stopped (o : Result) (k : State → Result) : (Ended.stopped o).andThen k = o := rfl

/-- The sentinels of an always-fatal condition (R234). -/
def sentinels (dests : List Reg) : List RegWrite := dests.map (fun r => (r, 0))

/-- An always-fatal condition always answers a next state: the sentinels in test mode, HALTED otherwise. -/
theorem fatalOrSentinel_eq {c : Cause} (hc : c.suppressible = true) (ec : Code) (opc : Opc) (dests : List Reg)
    (s : State) :
    fatalOrSentinel c ec opc dests s
      = .next (if s.tm then (s.log (.msg c s.cc opc ec false)).complete (sentinels dests) else s.halt c ec opc) := by
  unfold fatalOrSentinel sentinels
  cases h : s.tm
  · simp [fatal_of_tm_false h]
  · simp [fatal_of_tm_true h hc]

/-! ### Reports (40_policy.md R100, R110 to R113) -/

/-- Everything a report can do: return with a message or with one word of M written, halt, suspend, or be refused. -/
inductive ReportEnd (code : Code) (opc : Opc) (writes : List RegWrite) (s : State) : Ended → Prop where
  | message (tm : s.tm = true) : ReportEnd code opc writes s (.returned (s.log (.msg .terminate s.cc opc code false)))
  | written (a : Nat) (v : Word) (place : storeAddress s.current code = some a) (inside : a < s.memWords) :
      ReportEnd code opc writes s (.returned (s.writeWord a v))
  | terminated (tm : s.tm = false) : ReportEnd code opc writes s (.stopped (.next (s.halt .terminate code opc)))
  | outside : ReportEnd code opc writes s (.stopped (.next (s.halt .memFault code opc)))
  | suspended (act : s.current.act = .callback) : ReportEnd code opc writes s (.stopped (.next
      { s.log (.callback s.current.res s.cc opc code) with
        pend := some { opc := opc, code := code, writes := writes }, runState := .cbwait }))
  | kind : ReportEnd code opc writes s (.stopped (.refused .overrideKind))
  | flag : ReportEnd code opc writes s (.stopped (.refused .setFlagCode))

/-- The action of a report is Terminate or the current record's own kind. -/
theorem resolveAction_some {o : Option Action} {cur : PolicyRecord} {a : Action} (h : resolveAction o cur = some a) :
    a = .terminate ∨ cur.act = a := by
  cases o with
  | none => exact .inr (Option.some.inj h)
  | some b =>
    simp only [resolveAction] at h
    split at h
    · rename_i hb
      cases h
      exact hb.imp id Eq.symm
    · cases h

/-- A report ends in one of those ways. -/
theorem report_end (code : Code) (o : Option Action) (opc : Opc) (writes : List RegWrite) (s : State) :
    ReportEnd code opc writes s (report code o opc writes s) := by
  unfold report
  split
  · exact .kind
  · unfold terminateAction
    split
    · rename_i h
      exact .message h
    · rename_i h
      rw [fatal_of_not_suppressible rfl]
      exact .terminated (by simpa using h)
  · rename_i hr
    have hact : s.current.act = .count := (resolveAction_some hr).resolve_left (by decide)
    unfold countAction
    split
    · rename_i h
      exact .written _ _ (by simp [storeAddress, hact]) (of_decide_eq_true h)
    · rw [fatal_of_not_suppressible rfl]
      exact .outside
  · rename_i hr
    have hact : s.current.act = .setFlag := (resolveAction_some hr).resolve_left (by decide)
    unfold setFlagAction
    split
    · exact .flag
    · split
      · rename_i h
        exact .written _ _ (by simp [storeAddress, hact]) (of_decide_eq_true h)
      · rw [fatal_of_not_suppressible rfl]
        exact .outside
  · rename_i hr
    exact .suspended ((resolveAction_some hr).resolve_left (by decide))

/-- Every next state of an instruction that reports: completed after the action, halted, or suspended. -/
theorem reportThenComplete_next {code : Code} {o : Option Action} {opc : Opc} {writes : List RegWrite} {s s' : State}
    (h : reportThenComplete code o opc writes s = .next s') :
    (s.tm = true ∧ s' = (s.log (.msg .terminate s.cc opc code false)).complete writes)
    ∨ (∃ a v, storeAddress s.current code = some a ∧ a < s.memWords ∧ s' = (s.writeWord a v).complete writes)
    ∨ (s.tm = false ∧ s' = s.halt .terminate code opc)
    ∨ s' = s.halt .memFault code opc
    ∨ (s.current.act = .callback ∧ s' = { s.log (.callback s.current.res s.cc opc code) with
        pend := some { opc := opc, code := code, writes := writes }, runState := .cbwait }) := by
  unfold reportThenComplete at h
  cases he : report code o opc writes s with
  | returned t =>
    have hr := report_end code o opc writes s
    rw [he] at hr h
    cases h
    cases hr with
    | message tm => exact .inl ⟨tm, rfl⟩
    | written a v p i => exact .inr (.inl ⟨a, v, p, i, rfl⟩)
  | stopped t =>
    have hr := report_end code o opc writes s
    rw [he] at hr h
    cases hr with
    | terminated tm => cases h; exact .inr (.inr (.inl ⟨tm, rfl⟩))
    | outside => cases h; exact .inr (.inr (.inr (.inl rfl)))
    | suspended act => cases h; exact .inr (.inr (.inr (.inr ⟨act, rfl⟩)))
    | kind => cases h
    | flag => cases h

/-! ### Finish (R109) -/

/-- Without overflow a checked instruction completes with the plain writes. -/
@[simp] theorem finishChecked_false (c : Checked) (opc : Opc) (plain satv : List RegWrite) (s : State) :
    finishChecked c false opc plain satv s = .next (s.complete plain) := rfl

/-- With overflow a checked instruction reports, then completes with the substituted writes. -/
@[simp] theorem finishChecked_true (c : Checked) (opc : Opc) (plain satv : List RegWrite) (s : State) :
    finishChecked c true opc plain satv s
      = reportThenComplete (s.checkedCode c) (checkedOverride c) opc satv s := rfl

/-- At level U an instruction completes with the plain writes. -/
@[simp] theorem finish_unchecked (ovf : Bool) (opc : Opc) (plain satv : List RegWrite) (s : State) :
    finish .unchecked ovf opc plain satv s = .next (s.complete plain) := rfl

@[simp] theorem finish_checked (c : Checked) (ovf : Bool) (opc : Opc) (plain satv : List RegWrite) (s : State) :
    finish (.checked c) ovf opc plain satv s = finishChecked c ovf opc plain satv s := rfl

/-- A checked instruction completes with the plain writes, or is an instruction that reports. -/
theorem finishChecked_next {c : Checked} {ovf : Bool} {opc : Opc} {plain satv : List RegWrite} {s s' : State}
    (h : finishChecked c ovf opc plain satv s = .next s') :
    (ovf = false ∧ s' = s.complete plain)
    ∨ (ovf = true ∧ reportThenComplete (s.checkedCode c) (checkedOverride c) opc satv s = .next s') := by
  cases ovf
  · cases h; exact .inl ⟨rfl, rfl⟩
  · exact .inr ⟨rfl, h⟩

/-- The same at any level. -/
theorem finish_next {l : Level} {ovf : Bool} {opc : Opc} {plain satv : List RegWrite} {s s' : State}
    (h : finish l ovf opc plain satv s = .next s') :
    ((l = .unchecked ∨ ovf = false) ∧ s' = s.complete plain)
    ∨ (∃ c, l = .checked c ∧ ovf = true ∧
        reportThenComplete (s.checkedCode c) (checkedOverride c) opc satv s = .next s') := by
  cases l with
  | unchecked => cases h; exact .inl ⟨.inl rfl, rfl⟩
  | checked c =>
    rcases finishChecked_next h with ⟨h1, h2⟩ | ⟨h1, h2⟩
    · exact .inl ⟨.inr h1, h2⟩
    · exact .inr ⟨c, rfl, h1, h2⟩

/-! ### Policy stack -/

/-- The current record after it was set. -/
@[simp] theorem State.current_setCurrent (s : State) (r : PolicyRecord) : (s.setCurrent r).current = r := by
  simp [State.current, State.setCurrent]

/-! ### Host transactions -/

/-- With a transaction waiting, a step performs it. -/
theorem nextTransaction_cons {s : State} {t : HostTxn} {rest : List HostTxn} (h : s.input = t :: rest) :
    nextTransaction s = transact t { s with input := rest } := by
  simp [nextTransaction, h]

/-- With none waiting, nothing changes. -/
theorem nextTransaction_nil {s : State} (h : s.input = []) : nextTransaction s = .next s := by
  simp [nextTransaction, h]

/-- The machine's range test is `inrange_T` in its bounds, type by type (00_scope.md R8). -/
theorem inRange_iff_representable (t : Ty) (n : Int) : t.inRange n = true ↔ representable t n := by
  cases t <;> simp [Ty.inRange, Ty.minVal, Ty.maxVal, Ty.signed, Ty.width, representable]

end Sys2Proof.Machine
end

