-- ==== Sys2Proof/Laws/Exec.lean ====
section
/-! SUPPORT. What an instruction can do, said once: every instruction but VDIVL and those that write the policy state
ends in one of four ways. -/

namespace Sys2Proof.Machine

open Sys2Proof.Safety

/-- The next states of an instruction with opcode `opc`, destination registers `dests` and, where it can report, the
level `rep` it reports at: the plain completion, the test-mode sentinel, the halt on a condition that test mode
suppresses, and what follows a report. -/
inductive Ends (dests : List Reg) (rep : Option Checked) (opc : Opc) (s : State) : State → Prop where
  | plain (ws : List RegWrite) (hws : ws.map (fun w => w.1) = dests) : Ends dests rep opc s (s.complete ws)
  | sentinel (cause : Cause) (ec : Code) (hc : cause = .divZero ∨ cause = .shiftRange) (tm : s.tm = true) :
      Ends dests rep opc s ((s.log (.msg cause s.cc opc ec false)).complete (sentinels dests))
  | fatal (cause : Cause) (ec : Code) (hc : cause = .divZero ∨ cause = .shiftRange) (tm : s.tm = false) :
      Ends dests rep opc s (s.halt cause ec opc)
  | reported (c : Checked) (ws : List RegWrite) (s' : State) (hrep : rep = some c)
      (hws : ws.map (fun w => w.1) = dests)
      (h : reportThenComplete (s.checkedCode c) (checkedOverride c) opc ws s = .next s') : Ends dests rep opc s s'

/-- The sentinels write the destination registers. -/
theorem sentinels_map (dests : List Reg) : (sentinels dests).map (fun w => w.1) = dests := by
  simp [sentinels, Function.comp_def]

theorem fatalOrSentinel_ends {cause : Cause} (hc : cause = .divZero ∨ cause = .shiftRange) {ec : Code} {opc : Opc}
    {dests : List Reg} {rep : Option Checked} {s s' : State} (h : fatalOrSentinel cause ec opc dests s = .next s') :
    Ends dests rep opc s s' := by
  rw [fatalOrSentinel_eq (by rcases hc with rfl | rfl <;> rfl)] at h
  cases h
  cases htm : s.tm
  · exact .fatal cause ec hc htm
  · exact .sentinel cause ec hc htm

theorem finishChecked_ends {c : Checked} {ovf : Bool} {opc : Opc} {plain satv : List RegWrite} {dests : List Reg}
    {s s' : State} (hp : plain.map (fun w => w.1) = dests) (hs : satv.map (fun w => w.1) = dests)
    (h : finishChecked c ovf opc plain satv s = .next s') : Ends dests (some c) opc s s' := by
  rcases finishChecked_next h with ⟨-, rfl⟩ | ⟨-, h⟩
  · exact .plain plain hp
  · exact .reported c satv s' rfl hs h

theorem finish_ends {l : Level} {ovf : Bool} {opc : Opc} {plain satv : List RegWrite} {dests : List Reg}
    {s s' : State} (hp : plain.map (fun w => w.1) = dests) (hs : satv.map (fun w => w.1) = dests)
    (h : finish l ovf opc plain satv s = .next s') : Ends dests (levelChecked l) opc s s' := by
  rcases finish_next h with ⟨-, rfl⟩ | ⟨c, rfl, -, h⟩
  · exact .plain plain hp
  · exact .reported c satv s' rfl hs h

theorem withAmount_ends {n : Int} {limit : Nat} {ec : Code} {opc : Opc} {rd : Reg} {rep : Option Checked} {s s' : State}
    {k : Nat → Result} (hk : ∀ m, k m = .next s' → Ends [rd] rep opc s s')
    (h : withAmount n limit ec opc rd s k = .next s') : Ends [rd] rep opc s s' := by
  unfold withAmount at h
  split at h
  · exact hk _ h
  · exact fatalOrSentinel_ends (.inr rfl) h

theorem complete_ends {opc : Opc} {ws : List RegWrite} {dests : List Reg} {rep : Option Checked} {s s' : State}
    (hp : ws.map (fun w => w.1) = dests) (h : Host.Outcome.next (s.complete ws) = (.next s' : Result)) :
    Ends dests rep opc s s' := by
  cases h
  exact .plain ws hp

theorem addTyped_ends {t : Ty} {l : Level} {rd ra rb : Reg} {s s' : State} (h : addTyped t l rd ra rb s = .next s') :
    Ends [rd] (levelChecked l) 0x10 s s' := finish_ends rfl rfl h

theorem subTyped_ends {t : Ty} {l : Level} {rd ra rb : Reg} {s s' : State} (h : subTyped t l rd ra rb s = .next s') :
    Ends [rd] (levelChecked l) 0x11 s s' := finish_ends rfl rfl h

theorem negTyped_ends {t : Ty} {l : Level} {rd ra : Reg} {s s' : State} (h : negTyped t l rd ra s = .next s') :
    Ends [rd] (levelChecked l) 0x12 s s' := finish_ends rfl rfl h

theorem shlTyped_ends {t : Ty} {l : Level} {rd ra rb : Reg} {s s' : State} (h : shlTyped t l rd ra rb s = .next s') :
    Ends [rd] (levelChecked l) 0x20 s s' := withAmount_ends (fun _ => finish_ends rfl rfl) h

theorem shrTyped_ends {t : Ty} {rd ra rb : Reg} {s s' : State} (h : shrTyped t rd ra rb s = .next s') :
    Ends [rd] none 0x21 s s' := withAmount_ends (fun _ => complete_ends rfl) h

theorem shrrTyped_ends {t : Ty} {rd ra rb : Reg} {s s' : State} (h : shrrTyped t rd ra rb s = .next s') :
    Ends [rd] none 0x22 s s' := withAmount_ends (fun _ => complete_ends rfl) h

theorem mulwTyped_ends {t : Ty} {rd ra rb : Reg} {s s' : State} (h : mulwTyped t rd ra rb s = .next s') :
    Ends [rd] none 0x30 s s' := complete_ends rfl h

theorem msTyped_ends {t : Ty} {l : Level} {rd ra rb rc : Reg} {s s' : State}
    (h : msTyped t l rd ra rb rc s = .next s') : Ends [rd] (levelChecked l) 0x31 s s' :=
  withAmount_ends (fun _ => finish_ends rfl rfl) h

theorem msrTyped_ends {t : Ty} {l : Level} {rd ra rb rc : Reg} {s s' : State}
    (h : msrTyped t l rd ra rb rc s = .next s') : Ends [rd] (levelChecked l) 0x32 s s' :=
  withAmount_ends (fun _ => finish_ends rfl rfl) h

theorem divmWrites_map (rd : Reg) (re : Option Reg) (q r : Dword) :
    (divmWrites rd re q r).map (fun w => w.1) = divmDests rd re := by
  cases re <;> rfl

theorem divmTyped_ends {t : Ty} {c : Checked} {rd : Reg} {re : Option Reg} {ra rb : Reg} {s s' : State}
    (h : divmTyped t c rd re ra rb s = .next s') : Ends (divmDests rd re) (some c) 0x40 s s' := by
  unfold divmTyped at h
  dsimp only at h
  split at h
  · exact fatalOrSentinel_ends (.inl rfl) h
  · exact finishChecked_ends (divmWrites_map ..) (divmWrites_map ..) h

theorem divrTyped_ends {t : Ty} {c : Checked} {rd ra rb : Reg} {s s' : State}
    (h : divrTyped t c rd ra rb s = .next s') : Ends [rd] (some c) 0x41 s s' := by
  unfold divrTyped at h
  dsimp only at h
  split at h
  · exact complete_ends rfl h
  · exact finishChecked_ends rfl rfl h

theorem divsrTyped_ends {t : Ty} {c : Checked} {rd ra rb rc : Reg} {s s' : State}
    (h : divsrTyped t c rd ra rb rc s = .next s') : Ends [rd] (some c) 0x42 s s' := by
  unfold divsrTyped at h
  dsimp only at h
  split at h
  · exact fatalOrSentinel_ends (.inr rfl) h
  · split at h
    · exact fatalOrSentinel_ends (.inl rfl) h
    · exact finishChecked_ends rfl rfl h

/-- The opcodes whose instructions write the policy state, and VDIVL. -/
abbrev apart : List Opc := [0x01, 0x02, 0x03, 0x04, 0x06, 0x50]

/-- Every other instruction ends in one of the four ways. -/
theorem exec_ends {i : Instr} {s s' : State} (ha : i.opcode ∉ apart) (h : exec i s = .next s') :
    Ends (destinations i) (reportingLevel i) i.opcode s s' := by
  cases i with
  | pset act ra => exact absurd (by simp [Instr.opcode]) ha
  | ppush act ra => exact absurd (by simp [Instr.opcode]) ha
  | ppop => exact absurd (by simp [Instr.opcode]) ha
  | sdec code => exact absurd (by simp [Instr.opcode]) ha
  | report ecf => exact .reported (.explicit ecf) [] s' rfl rfl h
  | tmset enabled => exact absurd (by simp [Instr.opcode]) ha
  | tmget rd => exact complete_ends rfl h
  | addS32 l rd ra rb => exact addTyped_ends h
  | addU32 l rd ra rb => exact addTyped_ends h
  | addS64 l rd ra rb => exact addTyped_ends h
  | addU64 l rd ra rb => exact addTyped_ends h
  | subS32 l rd ra rb => exact subTyped_ends h
  | subU32 l rd ra rb => exact subTyped_ends h
  | subS64 l rd ra rb => exact subTyped_ends h
  | subU64 l rd ra rb => exact subTyped_ends h
  | negS32 l rd ra => exact negTyped_ends h
  | negS64 l rd ra => exact negTyped_ends h
  | shlS32 l rd ra rb => exact shlTyped_ends h
  | shlU32 l rd ra rb => exact shlTyped_ends h
  | shlS64 l rd ra rb => exact shlTyped_ends h
  | shlU64 l rd ra rb => exact shlTyped_ends h
  | shrS32 rd ra rb => exact shrTyped_ends h
  | shrU32 rd ra rb => exact shrTyped_ends h
  | shrS64 rd ra rb => exact shrTyped_ends h
  | shrU64 rd ra rb => exact shrTyped_ends h
  | shrrS32 rd ra rb => exact shrrTyped_ends h
  | shrrU32 rd ra rb => exact shrrTyped_ends h
  | shrrS64 rd ra rb => exact shrrTyped_ends h
  | shrrU64 rd ra rb => exact shrrTyped_ends h
  | mulwS32 rd ra rb => exact mulwTyped_ends h
  | mulwU32 rd ra rb => exact mulwTyped_ends h
  | msS32 l rd ra rb rc => exact msTyped_ends h
  | msU32 l rd ra rb rc => exact msTyped_ends h
  | msS64 l rd ra rb rc => exact msTyped_ends h
  | msU64 l rd ra rb rc => exact msTyped_ends h
  | msrS32 l rd ra rb rc => exact msrTyped_ends h
  | msrU32 l rd ra rb rc => exact msrTyped_ends h
  | msrS64 l rd ra rb rc => exact msrTyped_ends h
  | msrU64 l rd ra rb rc => exact msrTyped_ends h
  | divmS32 c rd re ra rb => exact divmTyped_ends h
  | divmU32 c rd re ra rb => exact divmTyped_ends h
  | divmS64 c rd re ra rb => exact divmTyped_ends h
  | divmU64 c rd re ra rb => exact divmTyped_ends h
  | divrS32 c rd ra rb => exact divrTyped_ends h
  | divrU32 c rd ra rb => exact divrTyped_ends h
  | divrS64 c rd ra rb => exact divrTyped_ends h
  | divrU64 c rd ra rb => exact divrTyped_ends h
  | divsrS32 c rd ra rb rc => exact divsrTyped_ends h
  | divsrU32 c rd ra rb rc => exact divsrTyped_ends h
  | divsrS64 c rd ra rb rc => exact divsrTyped_ends h
  | divsrU64 c rd ra rb rc => exact divsrTyped_ends h
  | vdivl rnd rq rx ry rr rw rnx rny => exact absurd (by simp [Instr.opcode]) ha

/-! ### The instructions apart -/

/-- PSET: the record set, or BADACTION. -/
theorem execPset_next {act : BitVec 4} {ra : Reg} {s s' : State} (h : execPset act ra s = .next s') :
    (∃ r, s' = (s.setCurrent r).stepCC) ∨ s' = s.halt .badAction 0 0x01#8 := by
  unfold execPset at h
  split at h
  · rw [fatal_of_not_suppressible rfl] at h
    cases h
    exact .inr rfl
  · cases h
    exact .inl ⟨_, rfl⟩

/-- PPUSH: a record more, PSTACKOVF, or BADACTION. -/
theorem execPpush_next {act : BitVec 4} {ra : Reg} {s s' : State} (h : execPpush act ra s = .next s') :
    (∃ r hlt, s' = (pushRecord s r hlt).stepCC) ∨ s' = s.halt .pstackOvf 0 0x02#8 ∨ s' = s.halt .badAction 0 0x02#8 := by
  unfold execPpush at h
  split at h
  · split at h
    · rw [fatal_of_not_suppressible rfl] at h
      cases h
      exact .inr (.inr rfl)
    · cases h
      exact .inl ⟨_, _, rfl⟩
  · rw [fatal_of_not_suppressible rfl] at h
    cases h
    exact .inr (.inl rfl)

/-- VDIVL: the vectors written, or MEMFAULT. -/
theorem execVdivl_next {rnd : Bool} {rq rx ry : Reg} {rr : Option Reg} {rw rnx rny : Reg} {s s' : State}
    (h : execVdivl rnd rq rx ry rr rw rnx rny s = .next s') :
    (s.vdivlValid (s.vdivlRegions rq rx ry rr rw rnx rny) = true
        ∧ (s.vdivlRegions rq rx ry rr rw rnx rny).allowed = true
        ∧ s' = (s.vdivlWrite rnd (s.vdivlRegions rq rx ry rr rw rnx rny)).stepCC)
    ∨ (s.vdivlValid (s.vdivlRegions rq rx ry rr rw rnx rny) = false ∧ s' = s.halt .memFault 0 0x50#8) := by
  unfold execVdivl at h
  dsimp only at h
  split at h
  · cases h
  · rename_i hn
    cases h
    cases hv : s.vdivlValid (s.vdivlRegions rq rx ry rr rw rnx rny)
    · exact .inr ⟨rfl, by simp⟩
    · refine .inl ⟨rfl, by simpa [hv] using hn, by simp⟩

/-- What VDIVL writes is memory and the counter of free values only. -/
theorem vdivlWrite_eq (rnd : Bool) (g : VdivlRegions) (s : State) :
    s.vdivlWrite rnd g = { s with mem := (s.vdivlWrite rnd g).mem, draws := s.draws + g.w.len } := by
  unfold State.vdivlWrite
  dsimp only
  split <;> rfl

/-! ### Final states -/

/-- The halting end of the fatal procedure, as claims name it. -/
theorem halt_eq_haltedBy (s : State) (cause : Cause) (ec : Code) (opc : Opc) :
    s.halt cause ec opc = haltedBy s cause ec opc := rfl

/-- The completion with one destination register, as claims name it. -/
theorem complete_eq_completed (s : State) (rd : Reg) (v : Dword) : s.complete [(rd, v)] = completed s rd v := rfl

/-- A suppressed condition with one destination register, as claims name its outcome. -/
theorem fatalOrSentinel_eq_fatalOutcome {cause : Cause} (hc : cause.suppressible = true) (ec : Code) (opc : Opc)
    (rd : Reg) (s : State) : fatalOrSentinel cause ec opc [rd] s = .next (fatalOutcome s cause ec opc rd) := by
  rw [fatalOrSentinel_eq hc]
  rfl

/-! ### Every instruction -/

/-- Every next state of every instruction. -/
theorem exec_next {i : Instr} {s s' : State} (h : exec i s = .next s') :
    Ends (destinations i) (reportingLevel i) i.opcode s s'
    ∨ (∃ act ra, i = .pset act ra ∧ ((∃ r, s' = (s.setCurrent r).stepCC) ∨ s' = haltedBy s .badAction 0 0x01#8))
    ∨ (∃ act ra, i = .ppush act ra ∧ ((∃ r hlt, s' = (pushRecord s r hlt).stepCC)
        ∨ s' = haltedBy s .pstackOvf 0 0x02#8 ∨ s' = haltedBy s .badAction 0 0x02#8))
    ∨ (i = .ppop ∧ ∃ p : Fin Config.psDepth, p.val = s.psp.val - 1 ∧ s' = State.stepCC { s with psp := p })
    ∨ (∃ c, i = .sdec c ∧ s' = State.stepCC { s with dec := c })
    ∨ (∃ b, i = .tmset b ∧ s' = State.stepCC { s with tm := b })
    ∨ (∃ rnd rq rx ry rr rw rnx rny, i = .vdivl rnd rq rx ry rr rw rnx rny
        ∧ ((s.vdivlValid (s.vdivlRegions rq rx ry rr rw rnx rny) = true
            ∧ s' = State.stepCC (s.vdivlWrite rnd (s.vdivlRegions rq rx ry rr rw rnx rny)))
          ∨ s' = haltedBy s .memFault 0 0x50#8)) := by
  by_cases ha : i.opcode ∈ apart
  · right
    cases i <;> simp [Instr.opcode] at ha
    case pset act ra => exact .inl ⟨_, _, rfl, execPset_next h⟩
    case ppush act ra => exact .inr (.inl ⟨_, _, rfl, execPpush_next h⟩)
    case ppop =>
      cases h
      exact .inr (.inr (.inl ⟨rfl, _, rfl, rfl⟩))
    case sdec =>
      cases h
      exact .inr (.inr (.inr (.inl ⟨_, rfl, rfl⟩)))
    case tmset =>
      cases h
      exact .inr (.inr (.inr (.inr (.inl ⟨_, rfl, rfl⟩))))
    case vdivl =>
      refine .inr (.inr (.inr (.inr (.inr ⟨_, _, _, _, _, _, _, _, rfl, ?_⟩))))
      rcases execVdivl_next h with ⟨hv, -, rfl⟩ | ⟨-, rfl⟩
      · exact .inl ⟨hv, rfl⟩
      · exact .inr rfl
  · exact .inl (exec_ends ha h)

end Sys2Proof.Machine
end

