-- ==== Sys2Proof/Laws/PerInstr.lean ====
section
/-! SUPPORT. Facts that hold of every instruction as syntax, one lemma a constructor. -/

namespace Sys2Proof.Laws

/-- The low byte of an instruction's word is its opcode (30_encoding.md R70, R79, R85). -/
def OpcodeByte.Statement (i : Instr) : Prop := opcOf (encode i) = i.opcode

theorem OpcodeByte.pset (act : BitVec 4) (ra : Reg) :
    OpcodeByte.Statement (.pset act ra) := opcOf_wordP _

theorem OpcodeByte.ppush (act : BitVec 4) (ra : Reg) :
    OpcodeByte.Statement (.ppush act ra) := opcOf_wordP _

theorem OpcodeByte.ppop :
    OpcodeByte.Statement (.ppop) := opcOf_wordP _

theorem OpcodeByte.sdec (code : Code) :
    OpcodeByte.Statement (.sdec code) := opcOf_wordP _

theorem OpcodeByte.report (ecf : Ecf) :
    OpcodeByte.Statement (.report ecf) := opcOf_wordP _

theorem OpcodeByte.tmset (enabled : Bool) :
    OpcodeByte.Statement (.tmset enabled) := opcOf_wordP _

theorem OpcodeByte.tmget (rd : Reg) :
    OpcodeByte.Statement (.tmget rd) := opcOf_wordP _

theorem OpcodeByte.addS32 (l : Level) (rd ra rb : Reg) :
    OpcodeByte.Statement (.addS32 l rd ra rb) := opcOf_wordA _

theorem OpcodeByte.addU32 (l : Level) (rd ra rb : Reg) :
    OpcodeByte.Statement (.addU32 l rd ra rb) := opcOf_wordA _

theorem OpcodeByte.addS64 (l : Level) (rd ra rb : Reg) :
    OpcodeByte.Statement (.addS64 l rd ra rb) := opcOf_wordA _

theorem OpcodeByte.addU64 (l : Level) (rd ra rb : Reg) :
    OpcodeByte.Statement (.addU64 l rd ra rb) := opcOf_wordA _

theorem OpcodeByte.subS32 (l : Level) (rd ra rb : Reg) :
    OpcodeByte.Statement (.subS32 l rd ra rb) := opcOf_wordA _

theorem OpcodeByte.subU32 (l : Level) (rd ra rb : Reg) :
    OpcodeByte.Statement (.subU32 l rd ra rb) := opcOf_wordA _

theorem OpcodeByte.subS64 (l : Level) (rd ra rb : Reg) :
    OpcodeByte.Statement (.subS64 l rd ra rb) := opcOf_wordA _

theorem OpcodeByte.subU64 (l : Level) (rd ra rb : Reg) :
    OpcodeByte.Statement (.subU64 l rd ra rb) := opcOf_wordA _

theorem OpcodeByte.negS32 (l : Level) (rd ra : Reg) :
    OpcodeByte.Statement (.negS32 l rd ra) := opcOf_wordA _

theorem OpcodeByte.negS64 (l : Level) (rd ra : Reg) :
    OpcodeByte.Statement (.negS64 l rd ra) := opcOf_wordA _

theorem OpcodeByte.shlS32 (l : Level) (rd ra rb : Reg) :
    OpcodeByte.Statement (.shlS32 l rd ra rb) := opcOf_wordA _

theorem OpcodeByte.shlU32 (l : Level) (rd ra rb : Reg) :
    OpcodeByte.Statement (.shlU32 l rd ra rb) := opcOf_wordA _

theorem OpcodeByte.shlS64 (l : Level) (rd ra rb : Reg) :
    OpcodeByte.Statement (.shlS64 l rd ra rb) := opcOf_wordA _

theorem OpcodeByte.shlU64 (l : Level) (rd ra rb : Reg) :
    OpcodeByte.Statement (.shlU64 l rd ra rb) := opcOf_wordA _

theorem OpcodeByte.shrS32 (rd ra rb : Reg) :
    OpcodeByte.Statement (.shrS32 rd ra rb) := opcOf_wordA _

theorem OpcodeByte.shrU32 (rd ra rb : Reg) :
    OpcodeByte.Statement (.shrU32 rd ra rb) := opcOf_wordA _

theorem OpcodeByte.shrS64 (rd ra rb : Reg) :
    OpcodeByte.Statement (.shrS64 rd ra rb) := opcOf_wordA _

theorem OpcodeByte.shrU64 (rd ra rb : Reg) :
    OpcodeByte.Statement (.shrU64 rd ra rb) := opcOf_wordA _

theorem OpcodeByte.shrrS32 (rd ra rb : Reg) :
    OpcodeByte.Statement (.shrrS32 rd ra rb) := opcOf_wordA _

theorem OpcodeByte.shrrU32 (rd ra rb : Reg) :
    OpcodeByte.Statement (.shrrU32 rd ra rb) := opcOf_wordA _

theorem OpcodeByte.shrrS64 (rd ra rb : Reg) :
    OpcodeByte.Statement (.shrrS64 rd ra rb) := opcOf_wordA _

theorem OpcodeByte.shrrU64 (rd ra rb : Reg) :
    OpcodeByte.Statement (.shrrU64 rd ra rb) := opcOf_wordA _

theorem OpcodeByte.mulwS32 (rd ra rb : Reg) :
    OpcodeByte.Statement (.mulwS32 rd ra rb) := opcOf_wordA _

theorem OpcodeByte.mulwU32 (rd ra rb : Reg) :
    OpcodeByte.Statement (.mulwU32 rd ra rb) := opcOf_wordA _

theorem OpcodeByte.msS32 (l : Level) (rd ra rb rc : Reg) :
    OpcodeByte.Statement (.msS32 l rd ra rb rc) := opcOf_wordA _

theorem OpcodeByte.msU32 (l : Level) (rd ra rb rc : Reg) :
    OpcodeByte.Statement (.msU32 l rd ra rb rc) := opcOf_wordA _

theorem OpcodeByte.msS64 (l : Level) (rd ra rb rc : Reg) :
    OpcodeByte.Statement (.msS64 l rd ra rb rc) := opcOf_wordA _

theorem OpcodeByte.msU64 (l : Level) (rd ra rb rc : Reg) :
    OpcodeByte.Statement (.msU64 l rd ra rb rc) := opcOf_wordA _

theorem OpcodeByte.msrS32 (l : Level) (rd ra rb rc : Reg) :
    OpcodeByte.Statement (.msrS32 l rd ra rb rc) := opcOf_wordA _

theorem OpcodeByte.msrU32 (l : Level) (rd ra rb rc : Reg) :
    OpcodeByte.Statement (.msrU32 l rd ra rb rc) := opcOf_wordA _

theorem OpcodeByte.msrS64 (l : Level) (rd ra rb rc : Reg) :
    OpcodeByte.Statement (.msrS64 l rd ra rb rc) := opcOf_wordA _

theorem OpcodeByte.msrU64 (l : Level) (rd ra rb rc : Reg) :
    OpcodeByte.Statement (.msrU64 l rd ra rb rc) := opcOf_wordA _

theorem OpcodeByte.divmS32 (c : Checked) (rd : Reg) (re : Option Reg) (ra rb : Reg) :
    OpcodeByte.Statement (.divmS32 c rd re ra rb) := opcOf_wordA _

theorem OpcodeByte.divmU32 (c : Checked) (rd : Reg) (re : Option Reg) (ra rb : Reg) :
    OpcodeByte.Statement (.divmU32 c rd re ra rb) := opcOf_wordA _

theorem OpcodeByte.divmS64 (c : Checked) (rd : Reg) (re : Option Reg) (ra rb : Reg) :
    OpcodeByte.Statement (.divmS64 c rd re ra rb) := opcOf_wordA _

theorem OpcodeByte.divmU64 (c : Checked) (rd : Reg) (re : Option Reg) (ra rb : Reg) :
    OpcodeByte.Statement (.divmU64 c rd re ra rb) := opcOf_wordA _

theorem OpcodeByte.divrS32 (c : Checked) (rd ra rb : Reg) :
    OpcodeByte.Statement (.divrS32 c rd ra rb) := opcOf_wordA _

theorem OpcodeByte.divrU32 (c : Checked) (rd ra rb : Reg) :
    OpcodeByte.Statement (.divrU32 c rd ra rb) := opcOf_wordA _

theorem OpcodeByte.divrS64 (c : Checked) (rd ra rb : Reg) :
    OpcodeByte.Statement (.divrS64 c rd ra rb) := opcOf_wordA _

theorem OpcodeByte.divrU64 (c : Checked) (rd ra rb : Reg) :
    OpcodeByte.Statement (.divrU64 c rd ra rb) := opcOf_wordA _

theorem OpcodeByte.divsrS32 (c : Checked) (rd ra rb rc : Reg) :
    OpcodeByte.Statement (.divsrS32 c rd ra rb rc) := opcOf_wordA _

theorem OpcodeByte.divsrU32 (c : Checked) (rd ra rb rc : Reg) :
    OpcodeByte.Statement (.divsrU32 c rd ra rb rc) := opcOf_wordA _

theorem OpcodeByte.divsrS64 (c : Checked) (rd ra rb rc : Reg) :
    OpcodeByte.Statement (.divsrS64 c rd ra rb rc) := opcOf_wordA _

theorem OpcodeByte.divsrU64 (c : Checked) (rd ra rb rc : Reg) :
    OpcodeByte.Statement (.divsrU64 c rd ra rb rc) := opcOf_wordA _

theorem OpcodeByte.vdivl (rnd : Bool) (rq rx ry : Reg) (rr : Option Reg) (rw rnx rny : Reg) :
    OpcodeByte.Statement (.vdivl rnd rq rx ry rr rw rnx rny) := opcOf_wordV _

end Sys2Proof.Laws
end

