-- ==== Sys2Proof/Laws/Step.lean ====
section
/-! SUPPORT. What a step can do, said once (10_state.md R35, R36). -/

namespace Sys2Proof.Machine

open Sys2Proof.Safety

/-- With a transaction waiting, a step performs it. -/
theorem step_cons {s : State} {t : HostTxn} {rest : List HostTxn} (h : s.input = t :: rest) :
    step s = transact t { s with input := rest } := nextTransaction_cons h

/-- With none waiting, nothing changes. -/
theorem step_nil {s : State} (h : s.input = []) : step s = .next s := nextTransaction_nil h

/-- Everything a transaction can do when it answers a next state. -/
inductive Transacted (s : State) : HostTxn → State → Prop where
  | reset : Transacted s .reset s.resetUnit
  | writeReg (i : Nat) (v : Dword) (run : s.runState = .run) (small : i < Config.nReg) :
      Transacted s (.writeReg i v) (s.setReg (BitVec.ofNat 4 i) v)
  | readReg (i : Nat) (small : i < Config.nReg) :
      Transacted s (.readReg i) (s.answer (.reg (s.reg (BitVec.ofNat 4 i))))
  | writeMem (a : Nat) (v : Word) (run : s.runState = .run) (inside : a < s.memWords) :
      Transacted s (.writeMem a v) (s.writeWord a v)
  | readMem (a : Nat) (inside : a < s.memWords) : Transacted s (.readMem a) (s.answer (.mem (s.readWord a)))
  | executed (w : InstrWord) (i : Instr) (s' : State) (run : s.runState = .run) (hd : decode w = .ok i)
      (h : exec i s = .next s') : Transacted s (.issue w) s'
  | illegal (w : InstrWord) (e : Illegal) (run : s.runState = .run) (hd : decode w = .error e) :
      Transacted s (.issue w) (haltedBy s .illegal 0 (opcOf w))
  | ignored (w : InstrWord) (halted : s.runState = .halted) : Transacted s (.issue w) s
  | readStatus : Transacted s .readStatus (s.answer (.status s.status))
  | readEvents : Transacted s .readEvents (s.answer (.events s.ev))
  | resumed (p : Pending) (waiting : s.runState = .cbwait) (hp : s.pend = some p) :
      Transacted s (.callbackReply .resume) (s.resume p)
  | aborted (p : Pending) (waiting : s.runState = .cbwait) (hp : s.pend = some p) :
      Transacted s (.callbackReply .abort) (s.abort p)

/-- A transaction that answers a next state does one of those things. -/
theorem transact_next {t : HostTxn} {s s' : State} (h : transact t s = .next s') : Transacted s t s' := by
  cases t with
  | reset =>
    cases h
    exact .reset
  | writeReg i v =>
    simp only [transact, inRun, writeRegTxn] at h
    split at h
    · rename_i hr
      split at h
      · rename_i hi
        cases h
        exact .writeReg i v hr hi
      · cases h
    · cases h
    · cases h
  | readReg i =>
    simp only [transact, readRegTxn] at h
    split at h
    · rename_i hi
      cases h
      exact .readReg i hi
    · cases h
  | writeMem a v =>
    simp only [transact, inRun, writeMemTxn] at h
    split at h
    · rename_i hr
      split at h
      · rename_i ha
        cases h
        exact .writeMem a v hr (of_decide_eq_true ha)
      · cases h
    · cases h
    · cases h
  | readMem a =>
    simp only [transact, readMemTxn] at h
    split at h
    · rename_i ha
      cases h
      exact .readMem a (of_decide_eq_true ha)
    · cases h
  | issue w =>
    simp only [transact, issue] at h
    split at h
    · rename_i hr
      simp only [issueInRun] at h
      split at h
      · rename_i i hd
        exact .executed w i s' hr hd h
      · rename_i e hd
        simp only [illegalWord] at h
        rw [fatal_of_not_suppressible rfl] at h
        cases h
        exact .illegal w e hr hd
    · cases h
    · rename_i hh
      cases h
      exact .ignored w hh
  | readStatus =>
    cases h
    exact .readStatus
  | readEvents =>
    cases h
    exact .readEvents
  | callbackReply r =>
    simp only [transact, callbackReplyTxn] at h
    split at h
    · cases h
    · cases h
    · rename_i hw
      split at h
      · cases h
      · rename_i p hp
        cases h
        cases r
        · exact .resumed p hw hp
        · exact .aborted p hw hp

/-- A step either finds no transaction and changes nothing, or performs the first one. -/
theorem step_next {s s' : State} (h : step s = .next s') :
    (s.input = [] ∧ s' = s)
    ∨ ∃ t rest, s.input = t :: rest ∧ Transacted { s with input := rest } t s' := by
  cases hi : s.input with
  | nil =>
    rw [step_nil hi] at h
    cases h
    exact .inl ⟨rfl, rfl⟩
  | cons t rest =>
    rw [step_cons hi] at h
    exact .inr ⟨t, rest, rfl, transact_next h⟩

end Sys2Proof.Machine
end

