-- ==== Sys2Proof/Tests/Slice0.lean ====
section
/-! SUPPORT. Tests: ill-formed terms are refused, words decode as the spec's encoding says, one step gives what the spec's test
vectors (95_test_vectors.md) and examples say, and every statement with hypotheses has a state and operands that meet them. -/

namespace Sys2Proof.Tests

open Sys2Proof.Machine Sys2Proof.Safety

/-! ### Helpers -/

/-- The start state of 95_test_vectors.md section 1 with MEM_WORDS = 256, the record Count at 16 and `M[21]` = 0, and some registers. -/
def start (ws : List RegWrite) : State :=
  State.writeRegs
    { State.reset with
      params := { memWordsLess1 := 255, vecMsdFirst := false }
      mem := [(21, 0)]
      ps := (Vector.replicate 5 PolicyRecord.atReset).set 0 { act := .count, res := 16 } } ws

/-- The same with a record of some kind at some handle. -/
def record (a : Action) (res : Handle) (ws : List RegWrite) : State := (start ws).setCurrent { act := a, res := res }

/-- The same in test mode. -/
def tested (ws : List RegWrite) : State := { start ws with tm := true }

/-- The same with transactions waiting. -/
def asked (ts : List HostTxn) : State := { start [] with input := ts }

/-- A halted unit with transactions waiting. -/
def halted (ts : List HostTxn) : State := { start [] with runState := .halted, hcause := .terminate, input := ts }

/-- A unit in CBWAIT with transactions waiting. -/
def waiting (ts : List HostTxn) : State :=
  { start [] with runState := .cbwait, pend := some { opc := 0x10, code := 5, writes := [(5, 9)] }, input := ts }

/-- The outcome is a next state with the property. -/
def onNext (o : Result) (p : State → Bool) : Bool :=
  match o with
  | .next s => p s
  | .fault _ => false
  | .refused _ => false

/-- The outcome is a refusal with the reason. -/
def refusedAs (o : Result) (r : Refusal) : Bool :=
  match o with
  | .next _ => false
  | .fault _ => false
  | .refused q => decide (q = r)

/-- A next state with the property is a next state. -/
theorem next_of_onNext {o : Result} {p : State → Bool} (h : onNext o p = true) : ∃ s, o = .next s ∧ p s = true := by
  cases o with
  | next s => exact ⟨s, rfl, h⟩
  | fault _ => cases h
  | refused _ => cases h

/-- One instruction word, issued. -/
def issued (w : Nat) (s : State) : Result := step (s.withFetchWord 64 w)

/-! ### Well-formedness: the one condition R77 puts between two fields -/

theorem test_wellFormed_divm_remainder_is_quotient :
    (Instr.divmS32 .deferred 3 (some 3) 1 2).wellFormed = false
    ∧ (Instr.divmU32 .deferred 3 (some 3) 1 2).wellFormed = false
    ∧ (Instr.divmS64 .deferred 3 (some 3) 1 2).wellFormed = false
    ∧ (Instr.divmU64 .deferred 3 (some 3) 1 2).wellFormed = false := by decide

theorem test_wellFormed_divm_remainder_apart :
    (Instr.divmS32 .deferred 3 (some 4) 1 2).wellFormed = true
    ∧ (Instr.divmS32 .deferred 3 none 3 3).wellFormed = true := by decide

/-! ### Decoding: each word is written from the formula of 30_encoding.md R85 -/

theorem test_decode_pset :
    decode 0x0000000000090F01#64 = .ok (.pset 15 9) := by
  rfl

theorem test_decode_ppush :
    decode 0x00000000000E0102#64 = .ok (.ppush 1 14) := by
  rfl

theorem test_decode_ppop :
    decode 0x0000000000000003#64 = .ok (.ppop) := by
  rfl

theorem test_decode_sdec :
    decode 0x00ABCDEF00000004#64 = .ok (.sdec 0xABCDEF) := by
  rfl

theorem test_decode_report :
    decode 0x0080000100000005#64 = .ok (.report ⟨none, 0x800001⟩)
    ∧ decode 0x0180000100000005#64 = .ok (.report ⟨some .terminate, 0x800001⟩)
    ∧ decode 0x0280000100000005#64 = .ok (.report ⟨some .count, 0x800001⟩)
    ∧ decode 0x0380000100000005#64 = .ok (.report ⟨some .setFlag, 0x800001⟩)
    ∧ decode 0x0480000100000005#64 = .ok (.report ⟨some .callback, 0x800001⟩) := by
  exact ⟨rfl, rfl, rfl, rfl, rfl⟩

theorem test_decode_tmset :
    decode 0x0000000000000106#64 = .ok (.tmset true)
    ∧ decode 0x0000000000000006#64 = .ok (.tmset false) := by
  exact ⟨rfl, rfl⟩

theorem test_decode_tmget :
    decode 0x0000000000008007#64 = .ok (.tmget 8) := by
  rfl

theorem test_decode_add :
    decode 0x0000000000E15010#64 = .ok (.addS32 .unchecked 5 1 14)
    ∧ decode 0x0012345600E16510#64 = .ok (.addU32 (.checked (.explicit ⟨none, 0x123456⟩)) 6 1 14)
    ∧ decode 0x0000000000E17A10#64 = .ok (.addS64 (.checked .deferred) 7 1 14)
    ∧ decode 0x0312345600E18710#64 = .ok (.addU64 (.checked (.explicit ⟨some .setFlag, 0x123456⟩)) 8 1 14) := by
  exact ⟨rfl, rfl, rfl, rfl⟩

theorem test_decode_sub :
    decode 0x0000000000E15011#64 = .ok (.subS32 .unchecked 5 1 14)
    ∧ decode 0x0012345600E16511#64 = .ok (.subU32 (.checked (.explicit ⟨none, 0x123456⟩)) 6 1 14)
    ∧ decode 0x0000000000E17A11#64 = .ok (.subS64 (.checked .deferred) 7 1 14)
    ∧ decode 0x0312345600E18711#64 = .ok (.subU64 (.checked (.explicit ⟨some .setFlag, 0x123456⟩)) 8 1 14) := by
  exact ⟨rfl, rfl, rfl, rfl⟩

theorem test_decode_shl :
    decode 0x0000000000E15020#64 = .ok (.shlS32 .unchecked 5 1 14)
    ∧ decode 0x0012345600E16520#64 = .ok (.shlU32 (.checked (.explicit ⟨none, 0x123456⟩)) 6 1 14)
    ∧ decode 0x0000000000E17A20#64 = .ok (.shlS64 (.checked .deferred) 7 1 14)
    ∧ decode 0x0312345600E18720#64 = .ok (.shlU64 (.checked (.explicit ⟨some .setFlag, 0x123456⟩)) 8 1 14) := by
  exact ⟨rfl, rfl, rfl, rfl⟩

theorem test_decode_neg :
    decode 0x031234560003C412#64 = .ok (.negS32 (.checked (.explicit ⟨some .setFlag, 0x123456⟩)) 12 3)
    ∧ decode 0x000000000003CA12#64 = .ok (.negS64 (.checked .deferred) 12 3) := by
  exact ⟨rfl, rfl⟩

theorem test_decode_shr :
    decode 0x0000000000E15021#64 = .ok (.shrS32 5 1 14)
    ∧ decode 0x0000000000E16121#64 = .ok (.shrU32 6 1 14)
    ∧ decode 0x0000000000E17221#64 = .ok (.shrS64 7 1 14)
    ∧ decode 0x0000000000E18321#64 = .ok (.shrU64 8 1 14) := by
  exact ⟨rfl, rfl, rfl, rfl⟩

theorem test_decode_shrr :
    decode 0x0000000000E15022#64 = .ok (.shrrS32 5 1 14)
    ∧ decode 0x0000000000E16122#64 = .ok (.shrrU32 6 1 14)
    ∧ decode 0x0000000000E17222#64 = .ok (.shrrS64 7 1 14)
    ∧ decode 0x0000000000E18322#64 = .ok (.shrrU64 8 1 14) := by
  exact ⟨rfl, rfl, rfl, rfl⟩

theorem test_decode_mulw :
    decode 0x0000000000E15030#64 = .ok (.mulwS32 5 1 14)
    ∧ decode 0x0000000000E15130#64 = .ok (.mulwU32 5 1 14) := by
  exact ⟨rfl, rfl⟩

theorem test_decode_ms :
    decode 0x000000000BE15031#64 = .ok (.msS32 .unchecked 5 1 14 11)
    ∧ decode 0x001234560BE16531#64 = .ok (.msU32 (.checked (.explicit ⟨none, 0x123456⟩)) 6 1 14 11)
    ∧ decode 0x000000000BE17A31#64 = .ok (.msS64 (.checked .deferred) 7 1 14 11)
    ∧ decode 0x031234560BE18731#64 = .ok (.msU64 (.checked (.explicit ⟨some .setFlag, 0x123456⟩)) 8 1 14 11) := by
  exact ⟨rfl, rfl, rfl, rfl⟩

theorem test_decode_msr :
    decode 0x000000000BE15032#64 = .ok (.msrS32 .unchecked 5 1 14 11)
    ∧ decode 0x001234560BE16532#64 = .ok (.msrU32 (.checked (.explicit ⟨none, 0x123456⟩)) 6 1 14 11)
    ∧ decode 0x000000000BE17A32#64 = .ok (.msrS64 (.checked .deferred) 7 1 14 11)
    ∧ decode 0x031234560BE18732#64 = .ok (.msrU64 (.checked (.explicit ⟨some .setFlag, 0x123456⟩)) 8 1 14 11) := by
  exact ⟨rfl, rfl, rfl, rfl⟩

theorem test_decode_divm :
    decode 0x0812345600E15440#64 = .ok (.divmS32 (.explicit ⟨none, 0x123456⟩) 5 (some 0) 1 14)
    ∧ decode 0x0800000030E16940#64 = .ok (.divmU32 .deferred 6 (some 3) 1 14)
    ∧ decode 0x0B12345660E17640#64 = .ok (.divmS64 (.explicit ⟨some .setFlag, 0x123456⟩) 7 (some 6) 1 14)
    ∧ decode 0x0000000000E18B40#64 = .ok (.divmU64 .deferred 8 none 1 14) := by
  exact ⟨rfl, rfl, rfl, rfl⟩

theorem test_decode_divr :
    decode 0x0012345600E15441#64 = .ok (.divrS32 (.explicit ⟨none, 0x123456⟩) 5 1 14)
    ∧ decode 0x0000000000E16941#64 = .ok (.divrU32 .deferred 6 1 14)
    ∧ decode 0x0312345600E17641#64 = .ok (.divrS64 (.explicit ⟨some .setFlag, 0x123456⟩) 7 1 14)
    ∧ decode 0x0000000000E18B41#64 = .ok (.divrU64 .deferred 8 1 14) := by
  exact ⟨rfl, rfl, rfl, rfl⟩

theorem test_decode_divsr :
    decode 0x001234560BE15442#64 = .ok (.divsrS32 (.explicit ⟨none, 0x123456⟩) 5 1 14 11)
    ∧ decode 0x000000000BE16942#64 = .ok (.divsrU32 .deferred 6 1 14 11)
    ∧ decode 0x031234560BE17642#64 = .ok (.divsrS64 (.explicit ⟨some .setFlag, 0x123456⟩) 7 1 14 11)
    ∧ decode 0x000000000BE18B42#64 = .ok (.divsrU64 .deferred 8 1 14 11) := by
  exact ⟨rfl, rfl, rfl, rfl⟩

theorem test_decode_vdivl :
    decode 0x0000007650213350#64 = .ok (.vdivl true 3 1 2 (some 0) 5 6 7)
    ∧ decode 0x000000ABC0DEF050#64 = .ok (.vdivl false 15 14 13 none 12 11 10) := by
  exact ⟨rfl, rfl⟩

/-! ### Illegal words (30_encoding.md R80; the words of 95_test_vectors.md section 9) -/

theorem test_illegal_opcode :
    decode 0x0000000000000000#64 = .error .opcode
    ∧ decode 0x0000000000000013#64 = .error .opcode
    ∧ decode 0x00000000000000FF#64 = .error .opcode
    ∧ decode 0x0000000000000051#64 = .error .opcode := by
  exact ⟨rfl, rfl, rfl, rfl⟩

theorem test_illegal_reservedBit :
    decode 0x0000000000100003#64 = .error .reservedBit
    ∧ decode 0x8000000000000003#64 = .error .reservedBit
    ∧ decode 0x1000000000000010#64 = .error .reservedBit
    ∧ decode 0x0000001110111450#64 = .error .reservedBit
    ∧ decode 0x0000011110111050#64 = .error .reservedBit := by
  exact ⟨rfl, rfl, rfl, rfl, rfl⟩

theorem test_illegal_unusedField :
    decode 0x0000000000001001#64 = .error .unusedField
    ∧ decode 0x0000000000010004#64 = .error .unusedField
    ∧ decode 0x0000000001000010#64 = .error .unusedField
    ∧ decode 0x0000000000100012#64 = .error .unusedField
    ∧ decode 0x0800000000000031#64 = .error .unusedField := by
  exact ⟨rfl, rfl, rfl, rfl, rfl⟩

theorem test_illegal_remainderField :
    decode 0x0000000010000440#64 = .error .remainderField
    ∧ decode 0x0800000050005440#64 = .error .remainderField
    ∧ decode 0x0000001112111050#64 = .error .remainderField := by
  exact ⟨rfl, rfl, rfl⟩

theorem test_illegal_level :
    decode 0x0000000000000C10#64 = .error .level
    ∧ decode 0x0000000000000421#64 = .error .level
    ∧ decode 0x0000000000000830#64 = .error .level
    ∧ decode 0x0000000000000040#64 = .error .level := by
  exact ⟨rfl, rfl, rfl, rfl⟩

theorem test_illegal_ofType :
    decode 0x0000000000000112#64 = .error .ofType
    ∧ decode 0x0000000000000230#64 = .error .ofType := by
  exact ⟨rfl, rfl⟩

theorem test_illegal_selector :
    decode 0x0500000000000410#64 = .error .selector
    ∧ decode 0x0700000000000005#64 = .error .selector := by
  exact ⟨rfl, rfl⟩

theorem test_illegal_codeField :
    decode 0x0000000100000010#64 = .error .codeField
    ∧ decode 0x0100000000000810#64 = .error .codeField := by
  exact ⟨rfl, rfl⟩

theorem test_illegal_testMode :
    decode 0x0000000000000206#64 = .error .testMode := by
  rfl

/-! ### The functions the host calls -/

theorem test_decodeTableWord :
    decodeTableWord 64 0x0000000500215610 = some (.addS64 (.checked (.explicit ⟨none, 5⟩)) 5 1 2)
    ∧ decodeTableWord 64 0 = none ∧ decodeTableWord 8 3 = some .ppop := by decide

theorem test_first_instruction_after_reset :
    onNext (step (State.reset.withFetchWord 64 0x0000000300000004)) (fun s => decide (s.dec = 3 ∧ s.cc = 1)) = true := by
  decide

/-! ### One step: arithmetic (rows of 95_test_vectors.md sections 4 to 7; the word is the row's) -/

theorem test_addS64_reports :
    onNext (issued 0x0000000500215610 (start [(1, 0x7FFFFFFFFFFFFFFE), (2, 0x3)]))
      (fun s => decide (s.reg 5 = 0x7FFFFFFFFFFFFFFF ∧ s.readWord 21 = 1 ∧ s.cc = 1)) = true := by decide

theorem test_addU64_reports :
    onNext (issued 0x0000000500215710 (start [(1, 0xFFFFFFFFFFFFFFFF), (2, 0x1)]))
      (fun s => decide (s.reg 5 = 0xFFFFFFFFFFFFFFFF ∧ s.readWord 21 = 1 ∧ s.cc = 1)) = true := by decide

theorem test_addS32_reports :
    onNext (issued 0x0000000500215410 (start [(1, 0x80000000), (2, 0xFFFFFFFF)]))
      (fun s => decide (s.reg 5 = 0x0000000080000000 ∧ s.readWord 21 = 1 ∧ s.cc = 1)) = true := by decide

theorem test_addU32_reports :
    onNext (issued 0x0000000500215510 (start [(1, 0xFFFFFFFF), (2, 0x1)]))
      (fun s => decide (s.reg 5 = 0x00000000FFFFFFFF ∧ s.readWord 21 = 1 ∧ s.cc = 1)) = true := by decide

theorem test_subS64_reports :
    onNext (issued 0x0000000500215611 (start [(1, 0x8000000000000000), (2, 0x1)]))
      (fun s => decide (s.reg 5 = 0x8000000000000000 ∧ s.readWord 21 = 1 ∧ s.cc = 1)) = true := by decide

theorem test_subS32_reports :
    onNext (issued 0x0000000500215411 (start [(1, 0x80000000), (2, 0x1)]))
      (fun s => decide (s.reg 5 = 0x0000000080000000 ∧ s.readWord 21 = 1 ∧ s.cc = 1)) = true := by decide

theorem test_subU32_reports :
    onNext (issued 0x0000000500215511 (start [(1, 0x0), (2, 0x1)]))
      (fun s => decide (s.reg 5 = 0x0000000000000000 ∧ s.readWord 21 = 1 ∧ s.cc = 1)) = true := by decide

theorem test_subU64_reports :
    onNext (issued 0x0000000500215711 (start [(1, 0x5), (2, 0x7)]))
      (fun s => decide (s.reg 5 = 0x0000000000000000 ∧ s.readWord 21 = 1 ∧ s.cc = 1)) = true := by decide

theorem test_negS32_reports :
    onNext (issued 0x0000000500015412 (start [(1, 0x80000000)]))
      (fun s => decide (s.reg 5 = 0x000000007FFFFFFF ∧ s.readWord 21 = 1 ∧ s.cc = 1)) = true := by decide

theorem test_negS64_reports :
    onNext (issued 0x0000000500015612 (start [(1, 0x8000000000000000)]))
      (fun s => decide (s.reg 5 = 0x7FFFFFFFFFFFFFFF ∧ s.readWord 21 = 1 ∧ s.cc = 1)) = true := by decide

theorem test_shlS32_reports :
    onNext (issued 0x0000000500215420 (start [(1, 0xFFFFFFFFFFFFFFFE), (2, 0x1F)]))
      (fun s => decide (s.reg 5 = 0x0000000080000000 ∧ s.readWord 21 = 1 ∧ s.cc = 1)) = true := by decide

theorem test_shlU32_reports :
    onNext (issued 0x0000000500215520 (start [(1, 0x2), (2, 0x1F)]))
      (fun s => decide (s.reg 5 = 0x00000000FFFFFFFF ∧ s.readWord 21 = 1 ∧ s.cc = 1)) = true := by decide

theorem test_shlS64_reports :
    onNext (issued 0x0000000500215620 (start [(1, 0x4000000000000000), (2, 0x1)]))
      (fun s => decide (s.reg 5 = 0x7FFFFFFFFFFFFFFF ∧ s.readWord 21 = 1 ∧ s.cc = 1)) = true := by decide

theorem test_shlU64_reports :
    onNext (issued 0x0000000500215720 (start [(1, 0x8000000000000000), (2, 0x1)]))
      (fun s => decide (s.reg 5 = 0xFFFFFFFFFFFFFFFF ∧ s.readWord 21 = 1 ∧ s.cc = 1)) = true := by decide

theorem test_shrS32 :
    onNext (issued 0x0000000000215021 (start [(1, 0xFFFFFFFFFFFFFFFD), (2, 0x1)]))
      (fun s => decide (s.reg 5 = 0x00000000FFFFFFFE ∧ s.readWord 21 = 0 ∧ s.cc = 1)) = true := by decide

theorem test_shrU32 :
    onNext (issued 0x0000000000215121 (start [(1, 0xFFFFFFFD), (2, 0x1)]))
      (fun s => decide (s.reg 5 = 0x000000007FFFFFFE ∧ s.readWord 21 = 0 ∧ s.cc = 1)) = true := by decide

theorem test_shrS64 :
    onNext (issued 0x0000000000215221 (start [(1, 0xFFFFFFFFFFFFFFFD), (2, 0x1)]))
      (fun s => decide (s.reg 5 = 0xFFFFFFFFFFFFFFFE ∧ s.readWord 21 = 0 ∧ s.cc = 1)) = true := by decide

theorem test_shrU64 :
    onNext (issued 0x0000000000215321 (start [(1, 0xFFFFFFFFFFFFFFFD), (2, 0x1)]))
      (fun s => decide (s.reg 5 = 0x7FFFFFFFFFFFFFFE ∧ s.readWord 21 = 0 ∧ s.cc = 1)) = true := by decide

theorem test_shrrS32 :
    onNext (issued 0x0000000000215022 (start [(1, 0xFFFFFFFFFFFFFFFD), (2, 0x1)]))
      (fun s => decide (s.reg 5 = 0x00000000FFFFFFFF ∧ s.readWord 21 = 0 ∧ s.cc = 1)) = true := by decide

theorem test_shrrS64 :
    onNext (issued 0x0000000000215222 (start [(1, 0xFFFFFFFFFFFFFFFD), (2, 0x1)]))
      (fun s => decide (s.reg 5 = 0xFFFFFFFFFFFFFFFF ∧ s.readWord 21 = 0 ∧ s.cc = 1)) = true := by decide

theorem test_shrrU32 :
    onNext (issued 0x0000000000215122 (start [(1, 0xFFFFFFFF), (2, 0x1)]))
      (fun s => decide (s.reg 5 = 0x0000000080000000 ∧ s.readWord 21 = 0 ∧ s.cc = 1)) = true := by decide

theorem test_shrrU64 :
    onNext (issued 0x0000000000215322 (start [(1, 0xFFFFFFFFFFFFFFFF), (2, 0x3F)]))
      (fun s => decide (s.reg 5 = 0x0000000000000002 ∧ s.readWord 21 = 0 ∧ s.cc = 1)) = true := by decide

theorem test_mulwS32 :
    onNext (issued 0x0000000000215030 (start [(1, 0xFFFFFFFFFFFFFFFE), (2, 0x3)]))
      (fun s => decide (s.reg 5 = 0xFFFFFFFFFFFFFFFA ∧ s.readWord 21 = 0 ∧ s.cc = 1)) = true := by decide

theorem test_mulwU32 :
    onNext (issued 0x0000000000215130 (start [(1, 0xFFFFFFFF), (2, 0xFFFFFFFF)]))
      (fun s => decide (s.reg 5 = 0xFFFFFFFE00000001 ∧ s.readWord 21 = 0 ∧ s.cc = 1)) = true := by decide

theorem test_msS32_reports :
    onNext (issued 0x0000000503215431 (start [(1, 0x80000000), (2, 0xFFFFFFFFFFFFFFFF), (3, 0x0)]))
      (fun s => decide (s.reg 5 = 0x000000007FFFFFFF ∧ s.readWord 21 = 1 ∧ s.cc = 1)) = true := by decide

theorem test_msU32_reports :
    onNext (issued 0x0000000503215531 (start [(1, 0xFFFFFFFF), (2, 0xFFFFFFFF), (3, 0x1F)]))
      (fun s => decide (s.reg 5 = 0x00000000FFFFFFFF ∧ s.readWord 21 = 1 ∧ s.cc = 1)) = true := by decide

theorem test_msS64_reports :
    onNext (issued 0x0000000503215631 (start [(1, 0x4000000000000000), (2, 0x4), (3, 0x1)]))
      (fun s => decide (s.reg 5 = 0x7FFFFFFFFFFFFFFF ∧ s.readWord 21 = 1 ∧ s.cc = 1)) = true := by decide

theorem test_msU64_reports :
    onNext (issued 0x0000000503215731 (start [(1, 0xFFFFFFFFFFFFFFFF), (2, 0xFFFFFFFF), (3, 0x1F)]))
      (fun s => decide (s.reg 5 = 0xFFFFFFFFFFFFFFFF ∧ s.readWord 21 = 1 ∧ s.cc = 1)) = true := by decide

theorem test_msrS32_reports :
    onNext (issued 0x0000000503215432 (start [(1, 0x80000000), (2, 0xFFFFFFFFFFFFFFFF), (3, 0x0)]))
      (fun s => decide (s.reg 5 = 0x000000007FFFFFFF ∧ s.readWord 21 = 1 ∧ s.cc = 1)) = true := by decide

theorem test_msrU32_reports :
    onNext (issued 0x0000000503215532 (start [(1, 0xFFFFFFFF), (2, 0xFFFFFFFF), (3, 0x1F)]))
      (fun s => decide (s.reg 5 = 0x00000000FFFFFFFF ∧ s.readWord 21 = 1 ∧ s.cc = 1)) = true := by decide

theorem test_msrS64_reports :
    onNext (issued 0x0000000503215632 (start [(1, 0x4000000000000000), (2, 0x4), (3, 0x1)]))
      (fun s => decide (s.reg 5 = 0x7FFFFFFFFFFFFFFF ∧ s.readWord 21 = 1 ∧ s.cc = 1)) = true := by decide

theorem test_msrU64_reports :
    onNext (issued 0x0000000503215732 (start [(1, 0xFFFFFFFFFFFFFFFF), (2, 0xFFFFFFFF), (3, 0x1F)]))
      (fun s => decide (s.reg 5 = 0xFFFFFFFFFFFFFFFF ∧ s.readWord 21 = 1 ∧ s.cc = 1)) = true := by decide

theorem test_divmS32_reports :
    onNext (issued 0x0800000540215440 (start [(1, 0x80000000), (2, 0x1)]))
      (fun s => decide (s.reg 5 = 0x000000007FFFFFFF ∧ s.reg 4 = 0x0000000000000000 ∧ s.readWord 21 = 1 ∧ s.cc = 1)) = true := by decide

theorem test_divmU32_reports :
    onNext (issued 0x0800000540215540 (start [(1, 0x100000000), (2, 0x1)]))
      (fun s => decide (s.reg 5 = 0x00000000FFFFFFFF ∧ s.reg 4 = 0x0000000000000000 ∧ s.readWord 21 = 1 ∧ s.cc = 1)) = true := by decide

theorem test_divmS64_reports :
    onNext (issued 0x0800000540215640 (start [(1, 0x8000000000000000), (2, 0xFFFFFFFFFFFFFFFF)]))
      (fun s => decide (s.reg 5 = 0x7FFFFFFFFFFFFFFF ∧ s.reg 4 = 0x0000000000000000 ∧ s.readWord 21 = 1 ∧ s.cc = 1)) = true := by decide

theorem test_divmU64 :
    onNext (issued 0x0800000540215740 (start [(1, 0xFFFFFFFFFFFFFFFF), (2, 0x1)]))
      (fun s => decide (s.reg 5 = 0xFFFFFFFFFFFFFFFF ∧ s.reg 4 = 0x0000000000000000 ∧ s.readWord 21 = 0 ∧ s.cc = 1)) = true := by decide

theorem test_divrS32_reports :
    onNext (issued 0x0000000500215441 (start [(1, 0xFFFFFFFF), (2, 0x2)]))
      (fun s => decide (s.reg 5 = 0x000000007FFFFFFF ∧ s.readWord 21 = 1 ∧ s.cc = 1)) = true := by decide

theorem test_divrU32_reports :
    onNext (issued 0x0000000500215541 (start [(1, 0x1FFFFFFFF), (2, 0x2)]))
      (fun s => decide (s.reg 5 = 0x00000000FFFFFFFF ∧ s.readWord 21 = 1 ∧ s.cc = 1)) = true := by decide

theorem test_divrS64_reports :
    onNext (issued 0x0000000500215641 (start [(1, 0x8000000000000000), (2, 0xFFFFFFFFFFFFFFFF)]))
      (fun s => decide (s.reg 5 = 0x7FFFFFFFFFFFFFFF ∧ s.readWord 21 = 1 ∧ s.cc = 1)) = true := by decide

theorem test_divrU64 :
    onNext (issued 0x0000000500215741 (start [(1, 0xFFFFFFFFFFFFFFFF), (2, 0x2)]))
      (fun s => decide (s.reg 5 = 0x8000000000000000 ∧ s.readWord 21 = 0 ∧ s.cc = 1)) = true := by decide

theorem test_divsrS32_reports :
    onNext (issued 0x0000000503215442 (start [(1, 0x4000000000000000), (2, 0x1), (3, 0x2)]))
      (fun s => decide (s.reg 5 = 0x000000007FFFFFFF ∧ s.readWord 21 = 1 ∧ s.cc = 1)) = true := by decide

theorem test_divsrU32_reports :
    onNext (issued 0x0000000503215542 (start [(1, 0x8000000000000000), (2, 0x1), (3, 0x1)]))
      (fun s => decide (s.reg 5 = 0x00000000FFFFFFFF ∧ s.readWord 21 = 1 ∧ s.cc = 1)) = true := by decide

theorem test_divsrS64_reports :
    onNext (issued 0x0000000503215642 (start [(1, 0x4000000000000000), (2, 0x10000000000), (3, 0x2)]))
      (fun s => decide (s.reg 5 = 0x7FFFFFFFFFFFFFFF ∧ s.readWord 21 = 1 ∧ s.cc = 1)) = true := by decide

theorem test_divsrU64_reports :
    onNext (issued 0x0000000503215742 (start [(1, 0x8000000000000000), (2, 0x3), (3, 0x1)]))
      (fun s => decide (s.reg 5 = 0xFFFFFFFFFFFFFFFF ∧ s.readWord 21 = 1 ∧ s.cc = 1)) = true := by decide

theorem test_shlS32_range_halts :
    onNext (issued 0x0000000500215420 (start [(1, 0x1), (2, 0x20)]))
      (fun s => decide (s.runState = .halted ∧ s.hcause = .shiftRange ∧ s.hec = 5 ∧ s.cc = 0 ∧ s.reg 5 = 0)) = true := by decide

theorem test_shrS64_range :
    onNext (issued 0x0000000000215221 (start [(1, 0x1), (2, 0x40)]))
      (fun s => decide (s.runState = .halted ∧ s.hcause = .shiftRange ∧ s.hec = 0 ∧ s.cc = 0 ∧ s.reg 5 = 0)) = true := by decide

theorem test_msS32_negative :
    onNext (issued 0x0000000503215431 (start [(1, 0xFFFFFFFFFFFFFFFD), (2, 0x5), (3, 0x1)]))
      (fun s => decide (s.reg 5 = 0x00000000FFFFFFF8 ∧ s.readWord 21 = 0 ∧ s.cc = 1)) = true := by decide

theorem test_msrS32_negative :
    onNext (issued 0x0000000503215432 (start [(1, 0xFFFFFFFFFFFFFFFD), (2, 0x5), (3, 0x1)]))
      (fun s => decide (s.reg 5 = 0x00000000FFFFFFF9 ∧ s.readWord 21 = 0 ∧ s.cc = 1)) = true := by decide

theorem test_divmS32_signs :
    onNext (issued 0x0800000540215440 (start [(1, 0xFFFFFFFFFFFFFFF9), (2, 0xFFFFFFFFFFFFFFFE)]))
      (fun s => decide (s.reg 5 = 0x0000000000000003 ∧ s.reg 4 = 0x00000000FFFFFFFF ∧ s.readWord 21 = 0 ∧ s.cc = 1)) = true := by decide

theorem test_divmU64_by_zero :
    onNext (issued 0x0800000540215740 (start [(1, 0x7), (2, 0x0)]))
      (fun s => decide (s.runState = .halted ∧ s.hcause = .divZero ∧ s.hec = 5 ∧ s.cc = 0 ∧ s.reg 5 = 0)) = true := by decide

theorem test_divrS32_by_zero :
    onNext (issued 0x0000000500215441 (start [(1, 0x9), (2, 0x0)]))
      (fun s => decide (s.reg 5 = 0x0000000000000000 ∧ s.readWord 21 = 0 ∧ s.cc = 1)) = true := by decide

theorem test_divsrS32_range_halts :
    onNext (issued 0x0000000503215442 (start [(1, 0x3), (2, 0x2), (3, 0x40)]))
      (fun s => decide (s.runState = .halted ∧ s.hcause = .shiftRange ∧ s.hec = 5 ∧ s.cc = 0 ∧ s.reg 5 = 0)) = true := by decide

theorem test_divsrS64_negative :
    onNext (issued 0x0000000503215642 (start [(1, 0x1000000000000000), (2, 0x10000000000), (3, 0x2)]))
      (fun s => decide (s.reg 5 = 0x0000000000400000 ∧ s.readWord 21 = 0 ∧ s.cc = 1)) = true := by decide

theorem test_negS64_unchecked :
    onNext (issued 0x0000000000015212 (start [(1, 0x8000000000000000)]))
      (fun s => decide (s.reg 5 = 0x8000000000000000 ∧ s.readWord 21 = 0 ∧ s.cc = 1)) = true := by decide

theorem test_addS64_unchecked_wraps :
    onNext (issued 0x0000000000215210 (start [(1, 0x7FFFFFFFFFFFFFFE), (2, 0x3)]))
      (fun s => decide (s.reg 5 = 0x8000000000000001 ∧ s.readWord 21 = 0 ∧ s.cc = 1)) = true := by decide
/-! ### One step: policy (examples of 40_policy.md section 3) -/

theorem test_pset :
    onNext (issued 0x0000000000010101 ({ State.reset with regs := State.reset.regs.set 1 32 }))
      (fun s => decide (s.ps[0] = { act := .count, res := 32 } ∧ s.psp = 0 ∧ s.cc = 1)) = true := by decide

theorem test_pset_badAction_in_test_mode :
    onNext (issued 0x0000000000010401 (tested [(1, 32)]))
      (fun s => decide (s.runState = .halted ∧ s.hcause = .badAction ∧ s.hop = 1 ∧ s.cc = 0)) = true := by decide

theorem test_ppush :
    onNext (issued 0x0000000000020202 (record .count 32 [(2, 40)]))
      (fun s => decide (s.ps[0] = { act := .count, res := 32 } ∧ s.ps[1] = { act := .setFlag, res := 40 }
        ∧ s.psp = 1)) = true := by decide

theorem test_ppush_overflows_before_badAction :
    onNext (issued 0x0000000000020F02 { start [] with psp := 4 })
      (fun s => decide (s.hcause = .pstackOvf ∧ s.psp = 4 ∧ s.hec = 0)) = true := by decide

theorem test_ppop :
    onNext (issued 3 { start [] with psp := 1 }) (fun s => decide (s.psp = 0 ∧ s.cc = 1)) = true := by decide

theorem test_ppop_at_the_base :
    onNext (issued 3 (start [])) (fun s => decide (s.psp = 0 ∧ s.cc = 1)) = true := by decide

theorem test_sdec :
    onNext (issued 0x0000000300000004 (start [])) (fun s => decide (s.dec = 3 ∧ s.cc = 1)) = true := by decide

theorem test_report_count_wraps :
    onNext (issued 0x0000000300000005 { record .count 18 [] with mem := [(21, 0xFFFFFFFF)] })
      (fun s => decide (s.mem = [(21, 0)] ∧ s.cc = 1 ∧ s.ev = [])) = true := by decide

theorem test_report_terminate_override :
    onNext (issued 0x0100000500000005 (record .count 32 []))
      (fun s => decide (s.hcause = .terminate ∧ s.hec = 5 ∧ s.hop = 5 ∧ s.ev = [.msg .terminate 0 5 5 true])) = true := by
  decide

theorem test_tmset :
    onNext (issued 0x0000000000000106 (start [])) (fun s => decide (s.tm = true ∧ s.cc = 1)) = true := by decide

theorem test_tmget :
    onNext (issued 0x0000000000008007 (tested [])) (fun s => decide (s.reg 8 = 1 ∧ s.cc = 1)) = true := by decide

theorem test_setFlag_keeps_other_bits :
    onNext (issued 0x0000000500000005 { record .setFlag 21 [] with mem := [(21, 0x80000001)] })
      (fun s => decide (s.readWord 21 = 0x80000021)) = true := by decide

theorem test_setFlag_code_refused :
    refusedAs (issued 0x0000002000000005 (record .setFlag 4096 [])) .setFlagCode = true := by decide

theorem test_override_kind_refused :
    refusedAs (issued 0x0300000500000005 (record .count 32 [])) .overrideKind = true := by decide

/-! ### One step: VDIVL (45_vdivl.md R203: 1 000 000 000 000 by 7; in either digit order) -/

/-- The registers of 95_test_vectors.md section 8 for lengths 2 and 1, and a memory. -/
def dividing (msd : Bool) (m : Memory) : State :=
  { start [(1, 64), (2, 80), (3, 96), (4, 112), (5, 128), (6, 2), (7, 1)] with
    params := { memWordsLess1 := 255, vecMsdFirst := msd }, mem := m }

theorem test_vdivl_lsd_first :
    onNext (issued 0x0000007654213250 (dividing false [(64, 0xD4A51000), (65, 0xE8), (80, 7)]))
      (fun s => decide (s.readWord 96 = 0x42F30249 ∧ s.readWord 97 = 0x21 ∧ s.readWord 112 = 1 ∧ s.cc = 1)) = true := by
  decide

theorem test_vdivl_msd_first_rounds_up :
    onNext (issued 0x0000007654213350 (dividing true [(64, 0), (65, 15), (80, 4)]))
      (fun s => decide (s.readWord 96 = 0 ∧ s.readWord 97 = 4 ∧ s.readWord 112 = 3 ∧ s.ev = [])) = true := by
  decide

/-! ### One step: host transactions -/

theorem test_halted_ignores_issue :
    onNext (step (halted [.issue 3])) (fun s => decide (s = halted [])) = true := by decide

theorem test_callback_resumed :
    onNext (step (waiting [.callbackReply .resume]))
      (fun s => decide (s.reg 5 = 9 ∧ s.cc = 1 ∧ s.runState = .run ∧ s.pend = none)) = true := by decide

theorem test_callback_aborted :
    onNext (step (waiting [.callbackReply .abort]))
      (fun s => decide (s.reg 5 = 0 ∧ s.cc = 0 ∧ s.hcause = .cbAbort ∧ s.hop = 0x10 ∧ s.hec = 5 ∧ s.ev = [])) = true := by
  decide

theorem test_reset_keeps_memory :
    onNext (step (halted [.reset])) (fun s => decide (s.mem = [(21, 0)] ∧ s.runState = .run ∧ s.hcause = .none)) = true := by
  decide

/-! ### Witnesses: for every statement with hypotheses, states and operands that meet them, each clause at a boundary -/

/-- The word of `ADD.S64.E x5, x1, x2, 5`, and the instruction (30_encoding.md R85). -/
abbrev addWord : InstrWord := 0x0000000500215610
abbrev addInstr : Instr := .addS64 (.checked (.explicit ⟨none, 5⟩)) 5 1 2

/-- The operands of the next statements: largest positive numbers of 64 and 32 bits and 1. -/
abbrev top64 : List RegWrite := [(1, 0x7FFFFFFFFFFFFFFF), (2, 1)]
abbrev top32 : List RegWrite := [(1, 0x7FFFFFFF), (2, 1)]

theorem witness_StepRunsDecodedInstruction :
    (asked [.issue addWord]).runState = .run ∧ (asked [.issue addWord]).input = .issue addWord :: []
    ∧ decode addWord = .ok addInstr ∧ decodeTableWord 64 0x0000000500215610 = some addInstr := ⟨rfl, rfl, rfl, rfl⟩

theorem witness_DecodeEncode :
    (Instr.divmS32 (.explicit ⟨some .callback, 0xFFFFFF⟩) 15 (some 0) 15 15).wellFormed = true
    ∧ (Instr.vdivl true 15 15 15 (some 15) 15 15 15).wellFormed = true := by decide

theorem witness_EncodeDecode : decode addWord = .ok addInstr ∧ decode 0x00000076F4213250 = .ok (.vdivl false 3 1 2 (some 4) 15 6 7) :=
  ⟨rfl, rfl⟩

theorem witness_IllegalWordsHalt :
    (asked [.issue 0]).runState = .run ∧ (asked [.issue 0]).input = .issue 0 :: [] ∧ illegalInstruction 0
    ∧ illegalInstruction 0x0000000000001C10 ∧ ¬illegalInstruction addWord := by
  refine ⟨rfl, rfl, .inl ⟨by decide, by decide, by decide⟩, .inr (.inr (.inl ⟨by decide, ?_⟩)), ?_⟩
  · unfold illegalA
    decide
  · rintro (⟨-, h, -⟩ | ⟨h, -⟩ | ⟨-, h⟩ | ⟨h, -⟩)
    · exact absurd h (by decide)
    · exact absurd h (by decide)
    · revert h
      unfold illegalA
      decide
    · exact absurd h (by decide)

theorem witness_BadActionIsDecoded :
    4 ≤ (4#4).toNat ∧ 4 ≤ (15#4).toNat ∧ ({ start [] with psp := 3 } : State).psp.val < 4 := by decide

theorem witness_HaltedUnitIsInert :
    (halted [.issue 3]).runState = .halted ∧ (halted [.issue 3]).input = .issue 3 :: []
    ∧ (halted [.readReg 15]).input = .readReg (15#4).toNat :: [] ∧ 255 < (halted [.readMem 255]).memWords
    ∧ (halted [.readMem 255]).input = .readMem 255 :: [] ∧ (halted [.readStatus]).input = .readStatus :: []
    ∧ (halted [.readEvents]).input = .readEvents :: [] ∧ (halted [.reset]).input = .reset :: []
    ∧ HostTxn.issue 3 ≠ .reset ∧ (∃ s', step (halted [.issue 3]) = .next s') :=
  ⟨rfl, rfl, rfl, by decide, rfl, rfl, rfl, rfl, by decide, _, rfl⟩

theorem witness_RunStateTransitions :
    onNext (step (asked [.issue 0])) (fun s => decide (s.runState = .halted)) = true
    ∧ onNext (step { record .callback 7 [] with input := [.issue 0x0000000500000005] })
        (fun s => decide (s.runState = .cbwait)) = true
    ∧ onNext (step (waiting [.callbackReply .resume])) (fun s => decide (s.runState = .run)) = true
    ∧ onNext (step (waiting [.callbackReply .abort])) (fun s => decide (s.runState = .halted)) = true
    ∧ onNext (step (halted [.reset])) (fun s => decide (s.runState = .run)) = true := by decide

theorem witness_InstructionOutcomes :
    (start top64).runState = .run
    ∧ onNext (exec addInstr (start top64)) (fun s => decide (s.runState = .run)) = true
    ∧ onNext (exec addInstr (record .terminate 0 top64)) (fun s => decide (s.runState = .halted)) = true
    ∧ onNext (exec addInstr (record .callback 7 top64)) (fun s => decide (s.runState = .cbwait)) = true := by decide

theorem witness_CompletionFrame :
    (start top64).runState = .run ∧ addInstr.opcode ≠ 0x50
    ∧ onNext (exec addInstr (start top64)) (fun s => decide (s.runState = .run ∧ s.readWord 21 = 1)) = true
    ∧ (4 : Reg) ∉ destinations addInstr ∧ reportedCode addInstr (start top64) = some 5
    ∧ storeAddress (start top64).current 5 ≠ some 20 := by decide

theorem witness_PolicySurvivesFatals :
    (start []).runState = .run
    ∧ onNext (exec (.ppush 4 1) (start [])) (fun s => decide (s.runState = .halted)) = true
    ∧ (Instr.divmS32 .deferred 5 (some 4) 1 2).opcode ∉ ([0x01, 0x02, 0x03, 0x04] : List Opc)
    ∧ onNext (exec (.divmS32 .deferred 5 (some 4) 1 2) (tested [])) (fun s => decide (s.runState = .run)) = true := by
  decide

theorem witness_CounterCountsCompletions :
    onNext (step (asked [])) (fun _ => true) = true
    ∧ onNext (step { asked [.issue addWord] with cc := 0xFFFFFFFF }) (fun s => decide (s.cc = 0)) = true
    ∧ onNext (step (halted [.issue addWord])) (fun s => decide (s.cc = 0)) = true
    ∧ onNext (step (waiting [.callbackReply .resume])) (fun s => decide (s.cc = 1)) = true
    ∧ onNext (step (waiting [.callbackReply .abort])) (fun s => decide (s.cc = 0)) = true
    ∧ onNext (step { waiting [.reset] with cc := 7 }) (fun s => decide (s.cc = 0)) = true
    ∧ onNext (step (asked [.writeReg 0 1])) (fun s => decide (s.cc = 0)) = true
    ∧ onNext (step (asked [.readReg 15])) (fun s => decide (s.cc = 0)) = true
    ∧ onNext (step (asked [.writeMem 255 1])) (fun s => decide (s.cc = 0)) = true
    ∧ onNext (step (asked [.readMem 0])) (fun s => decide (s.cc = 0)) = true
    ∧ onNext (step (asked [.readStatus])) (fun s => decide (s.cc = 0)) = true
    ∧ onNext (step (asked [.readEvents])) (fun s => decide (s.cc = 0)) = true := by decide

theorem witness_EventLogOnlyGrows :
    onNext (step (asked [.reset])) (fun _ => true) = true ∧ (asked [.reset]).input = .reset :: []
    ∧ onNext (step (asked [.issue 0])) (fun s => decide (s.ev.length = 1)) = true
    ∧ ∀ rest, (asked [.issue 0]).input ≠ .reset :: rest := by
  refine ⟨by decide, rfl, by decide, fun rest h => ?_⟩
  cases h

theorem inv_asked : Inv (asked [.issue addWord]) := by
  constructor
  · exact List.pairwise_singleton _ _
  · intro e he
    cases List.mem_singleton.1 he
    decide
  · decide
  · intro p hp
    cases hp
  · decide
  · intro _
    decide

theorem witness_StepKeepsInvariant :
    Inv (asked [.issue addWord]) ∧ onNext (step (asked [.issue addWord])) (fun s => decide (s.cc = 1)) = true :=
  ⟨inv_asked, by decide⟩

theorem witness_UncheckedRunsAreSafe :
    (asked [.issue 0x0000000000215210, .issue 3]).runState = .run
    ∧ ∀ t ∈ (asked [.issue 0x0000000000215210, .issue 3]).input,
        ∃ w i, t = .issue w ∧ decode w = .ok i ∧ alwaysCompletes i := by
  refine ⟨rfl, fun t ht => ?_⟩
  rcases List.mem_cons.1 ht with rfl | ht
  · exact ⟨_, .addS64 .unchecked 5 1 2, rfl, rfl, rfl, by decide⟩
  · cases List.mem_singleton.1 ht
    exact ⟨_, .ppop, rfl, rfl, rfl, by decide⟩

theorem witness_TestModeIsOtherwiseInvisible :
    (start top64).runState = .run ∧ addInstr.opcode ∉ ([0x06, 0x07] : List Opc)
    ∧ onNext (exec addInstr (start top64)) (fun s => decide (s.runState = .run ∧ s.ev = (start top64).ev)) = true := by
  decide

theorem witness_PpushSavesAndSets :
    ({ start [] with psp := 4 } : State).psp.val = 4 ∧ ({ start [] with psp := 3 } : State).psp.val < 4
    ∧ (start []).psp.val < 4 := by decide

/-- A PPUSH, then a PSET, a PPUSH and a PPOP above it, then the PPOP that comes back. -/
theorem witness_StackDiscipline :
    ∃ s1 s2 s3, exec (.ppush 1 1) (start []) = .next s1 ∧ s1.runState = .run
      ∧ Above (start []).psp.val s1 [.pset 2 1, .ppush 3 1, .ppop] s2
      ∧ exec .ppop s2 = .next s3 ∧ s3.psp.val = (start []).psp.val :=
  ⟨_, _, _, rfl, rfl,
    .cons _ _ _ _ _ rfl rfl (by decide) (.cons _ _ _ _ _ rfl rfl (by decide)
      (.cons _ _ _ _ _ rfl rfl (by decide) (.nil _))), rfl, rfl⟩

theorem witness_TerminateHaltsOrReturns :
    resolvesTo (record .terminate 9 []) none .terminate ∧ resolvesTo (start []) (some .terminate) .terminate
    ∧ (start []).tm = false ∧ (tested []).tm = true ∧ resolvesTo (tested []) (some .terminate) .terminate :=
  ⟨.inl ⟨rfl, rfl⟩, .inr ⟨rfl, .inl rfl⟩, rfl, rfl, .inr ⟨rfl, .inl rfl⟩⟩

theorem witness_CountIncrementsOneWord :
    resolvesTo (record .count 250 []) none .count ∧ resolvesTo (record .count 250 []) (some .count) .count
    ∧ (record .count 250 []).current.res.toNat + (5 : Code).toNat < (record .count 250 []).memWords
    ∧ (record .count 250 []).memWords ≤ (record .count 250 []).current.res.toNat + (6 : Code).toNat :=
  ⟨.inl ⟨rfl, rfl⟩, .inr ⟨rfl, .inr rfl⟩, by decide, by decide⟩

theorem witness_SetFlagSetsOneBit :
    resolvesTo (record .setFlag 255 []) none .setFlag ∧ (31 : Code).toNat < 32
    ∧ (record .setFlag 255 []).current.res.toNat < (record .setFlag 255 []).memWords
    ∧ resolvesTo (record .setFlag 256 []) (some .setFlag) .setFlag
    ∧ (record .setFlag 256 []).memWords ≤ (record .setFlag 256 []).current.res.toNat ∧ 32 ≤ (32 : Code).toNat :=
  ⟨.inl ⟨rfl, rfl⟩, by decide, by decide, .inr ⟨rfl, .inr rfl⟩, by decide, by decide⟩

theorem witness_CallbackSuspendsAndReplies :
    resolvesTo (record .callback 7 []) none .callback ∧ resolvesTo (record .callback 7 []) (some .callback) .callback
    ∧ (record .callback 7 []).runState = .run ∧ (record .callback 7 []).pend = none :=
  ⟨.inl ⟨rfl, rfl⟩, .inr ⟨rfl, .inr rfl⟩, rfl, rfl⟩

theorem witness_OverrideNeedsItsKind :
    refusedAs (reportThenComplete 5 (some .setFlag) 5 [] (start [])) .overrideKind = true
    ∧ refusedAs (reportThenComplete 5 (some .count) 5 [] (start [])) .overrideKind = false := by decide

theorem witness_ReportInstruction :
    (record .count 250 []).current.act = .count
    ∧ (record .count 250 []).current.res.toNat + (Ecf.mk none 5).code.toNat < (record .count 250 []).memWords := by decide

theorem witness_ResetTransaction :
    (waiting [.reset]).input = .reset :: [] ∧ (halted [.reset]).runState = .halted
    ∧ onNext (step (halted [.reset])) (fun s => decide (s.runState ≠ .halted)) = true := ⟨rfl, rfl, by decide⟩

theorem witness_HostReadsAndWrites :
    (asked [.writeReg 15 1]).runState = .run ∧ (asked [.writeReg 15 1]).input = .writeReg (15#4).toNat 1 :: []
    ∧ 255 < (asked [.writeMem 255 1]).memWords ∧ (asked [.writeMem 255 1]).input = .writeMem 255 1 :: []
    ∧ (waiting [.readReg 0]).input = .readReg (0#4).toNat :: [] ∧ (waiting [.readMem 255]).input = .readMem 255 :: []
    ∧ (waiting [.readStatus]).input = .readStatus :: [] ∧ (waiting [.readEvents]).input = .readEvents :: [] :=
  ⟨rfl, rfl, by decide, rfl, rfl, rfl, rfl, rfl⟩

theorem witness_HostContractStops :
    (waiting [.issue 3]).runState = .cbwait ∧ (halted [.writeReg 0 1]).runState ≠ .run
    ∧ (halted [.writeReg 0 1]).input = .writeReg 0 1 :: [] ∧ (asked [.writeReg 16 1]).input = .writeReg 16 1 :: []
    ∧ (asked [.readReg 16]).input = .readReg 16 :: [] ∧ (halted [.writeMem 0 1]).input = .writeMem 0 1 :: []
    ∧ (asked [.writeMem 256 1]).memWords ≤ 256 ∧ (asked [.writeMem 256 1]).input = .writeMem 256 1 :: []
    ∧ (asked [.readMem 256]).input = .readMem 256 :: [] ∧ (asked [.callbackReply .resume]).runState ≠ .cbwait
    ∧ (asked [.callbackReply .resume]).input = .callbackReply .resume :: [] :=
  ⟨rfl, by decide, rfl, rfl, rfl, rfl, by decide, rfl, rfl, by decide, rfl⟩

/-- A host access at MEM_WORDS is refused (10_state.md R35), in HALTED for a read. -/
theorem test_host_address_refused :
    refusedAs (step (asked [.writeMem 256 1])) (.hostAddress 256) = true
    ∧ refusedAs (step (halted [.readMem 256])) (.hostAddress 256) = true
    ∧ refusedAs (step (halted [.readMem 255])) (.hostAddress 255) = false := by decide

theorem witness_IdleUnitWaits : (asked []).input = [] := rfl

theorem witness_MemoryIsPlainStorage :
    Memory.wf (memInsert (memInsert [] 1 5) 0 7) ∧ Memory.wf [(0, 7), (1, 5)]
    ∧ ∀ a, memFind (memInsert (memInsert [] 1 5) 0 7) a = memFind [(0, 7), (1, 5)] a :=
  ⟨by decide, by decide, fun _ => rfl⟩

theorem witness_DigitVectorLayout :
    1 < (Region.mk 254 2).len ∧ ¬inside (Region.mk 254 2) 253 ∧ ¬inside (Region.mk 254 2) 256
    ∧ 2 ^ 64 - 1 < 2 ^ (32 * (Region.mk 254 2).len) ∧ 0 < 2 ^ (32 * (Region.mk 254 0).len)
    ∧ ∃ s', exec .ppop (start []) = .next s' := by
  refine ⟨by decide, ?_, ?_, by decide, by decide, _, rfl⟩ <;>
  · unfold inside
    decide

theorem witness_AddWrapsOrSaturates :
    ¬addOverflows .s32 (low .s32 0x7FFFFFFE) (low .s32 1) ∧ addOverflows .s32 (low .s32 0x7FFFFFFF) (low .s32 1)
    ∧ ¬addOverflows .u64 (low .u64 0xFFFFFFFFFFFFFFFE) (low .u64 1)
    ∧ addOverflows .u64 (low .u64 0xFFFFFFFFFFFFFFFF) (low .u64 1)
    ∧ (start top32).reg 1 = 0x7FFFFFFF ∧ (start top32).reg 2 = 1 := by
  unfold addOverflows low
  decide

theorem witness_SubWrapsOrSaturates :
    ¬subOverflows .s32 (low .s32 0x80000001) (low .s32 1) ∧ subOverflows .s32 (low .s32 0x80000000) (low .s32 1)
    ∧ ¬subOverflows .u64 (low .u64 1) (low .u64 1) ∧ subOverflows .u64 (low .u64 0) (low .u64 1)
    ∧ (start [(1, 0x80000000), (2, 1)]).reg 1 = 0x80000000 := by
  unfold subOverflows low
  decide

theorem witness_NegOverflowsAtTheMinimum :
    low .s32 ((start [(1, 0x80000000)]).reg 1) = BitVec.intMin Ty.s32.width
    ∧ low .s64 ((start [(1, 0x80000000)]).reg 1) ≠ BitVec.intMin Ty.s64.width
    ∧ low .s64 ((start [(1, 0x8000000000000000)]).reg 1) = BitVec.intMin Ty.s64.width := by
  unfold low
  decide

theorem witness_LevelsAgree :
    representable .s32 (Ty.s32.val ((start [(1, 0x7FFFFFFE), (2, 1)]).reg 1) + Ty.s32.val ((start [(1, 0x7FFFFFFE), (2, 1)]).reg 2))
    ∧ representable .u64 (Ty.u64.val ((start [(1, 1), (2, 1)]).reg 1) - Ty.u64.val ((start [(1, 1), (2, 1)]).reg 2))
    ∧ representable .s64 (-(Ty.s64.val ((start [(1, 0x8000000000000001)]).reg 1))) := by
  unfold representable
  decide

/-- Two states that differ in the upper halves of x1 and x2 only. -/
theorem witness_UpperHalfIsIgnored :
    (start [(1, 0xAAAAAAAA7FFFFFFF), (2, 0x5555555500000001)])
        = { start top32 with regs := (start [(1, 0xAAAAAAAA7FFFFFFF), (2, 0x5555555500000001)]).regs }
    ∧ ((start [(1, 0xAAAAAAAA7FFFFFFF), (2, 0x5555555500000001)]).reg 1).setWidth 32 = ((start top32).reg 1).setWidth 32
    ∧ ((start [(1, 0xAAAAAAAA7FFFFFFF), (2, 0x5555555500000001)]).reg 2).setWidth 32 = ((start top32).reg 2).setWidth 32
    ∧ (start top32).runState = .run
    ∧ onNext (exec (.addS32 .unchecked 5 1 2) (start top32)) (fun s => decide (s.runState = .run)) = true := by decide

theorem witness_ShlLosesNoBit :
    ((start [(1, 1), (2, 31)]).reg 2).toNat < Ty.s32.width ∧ shlOverflows .s32 (low .s32 1) 31
    ∧ ¬shlOverflows .s32 (low .s32 0xFFFFFFFF) 31 ∧ ¬shlOverflows .u64 (low .u64 0xFFFFFFFFFFFFFFFF) 0
    ∧ shlOverflows .u64 (low .u64 0x8000000000000000) 1 := by
  refine ⟨by decide, ⟨by decide, 0, by decide, by decide, by decide⟩, ?_, fun h => absurd h.1 (by decide),
    ⟨by decide, 63, by decide, by decide, by decide⟩⟩
  rintro ⟨-, i, h1, h2, h3⟩
  have h : i < 32 := Nat.lt_of_le_of_lt h2 (by decide)
  exact absurd h3 ((by decide : ∀ j, j < 32 → ¬((low .s32 0xFFFFFFFF).getLsbD j ≠ (low .s32 0xFFFFFFFF).getLsbD 31)) i h)

theorem witness_ShlBitTestIsRangeTest : 31 < Ty.u32.width ∧ 63 < Ty.s64.width ∧ 0 < Ty.s32.width := by decide

theorem witness_ShrrAddsRoundBit :
    ((start [(2, 0)]).reg 2).toNat < Ty.s32.width ∧ ((start [(2, 63)]).reg 2).toNat < Ty.u64.width := by decide

/-- -3 by 1 (half, negative), -1 by 2 (not half, negative), 3 by 31 (non-negative). -/
theorem witness_ShrrIsNotMagnitudeRounding :
    (0 < ((start [(1, 0xFFFFFFFD), (2, 1)]).reg 2).toNat ∧ ((start [(1, 0xFFFFFFFD), (2, 1)]).reg 2).toNat < Ty.s32.width
      ∧ valueOf Ty.s32.signed (low .s32 0xFFFFFFFD) < 0 ∧ (low .s32 0xFFFFFFFD).getLsbD (1 - 1) = true
      ∧ ∀ j, j < 1 - 1 → (low .s32 0xFFFFFFFD).getLsbD j = false)
    ∧ (valueOf Ty.s32.signed (low .s32 0xFFFFFFFF) < 0 ∧ (low .s32 0xFFFFFFFF).getLsbD 0 ≠ false)
    ∧ (0 ≤ valueOf Ty.s32.signed (low .s32 3) ∧ ((start [(1, 3), (2, 31)]).reg 2).toNat < Ty.s32.width) := by
  unfold low
  decide

theorem witness_ShiftRangeIsFatal :
    ((start [(2, 0xFFFFFFFFFFFFFFFF)]).reg 2).toInt < 0 ∧ (Ty.s32.width : Int) ≤ ((start [(2, 32)]).reg 2).toInt
    ∧ (Ty.u64.width : Int) ≤ ((start [(2, 64)]).reg 2).toInt := by decide

/-- 3 * 5 by 1: floor 7, rounded 8; and -2^31 * -2^31 by 31, which is 2^31. -/
theorem witness_MsFloorsTheProduct :
    ((start [(1, 3), (2, 5), (3, 1)]).reg 3).toNat < Ty.s32.width + 32
    ∧ (7 : Int) * 2 ^ 1 ≤ valueOf true (low .s32 3) * valueOf true ((5 : Dword).setWidth 32)
    ∧ valueOf true (low .s32 3) * valueOf true ((5 : Dword).setWidth 32) < (7 + 1) * 2 ^ 1
    ∧ representable .s32 7 ∧ ¬representable .s32 (2 ^ 31)
    ∧ ((start [(3, 95)]).reg 3).toNat < Ty.u64.width + 32 := by
  unfold low representable
  decide

theorem witness_MsrRoundsTheProduct :
    ((start [(1, 3), (2, 5), (3, 1)]).reg 3).toNat < Ty.s32.width + 32
    ∧ (2 * 8 - 1 : Int) * 2 ^ 1 ≤ 2 * (valueOf true (low .s32 3) * valueOf true ((5 : Dword).setWidth 32))
    ∧ 2 * (valueOf true (low .s32 3) * valueOf true ((5 : Dword).setWidth 32)) < (2 * 8 + 1) * 2 ^ 1
    ∧ representable .s32 8 ∧ ¬representable .s32 (2 ^ 31) := by
  unfold low representable
  decide

theorem witness_MultiplyByOneIsShift :
    ((start [(2, 0x100000001), (3, 31)]).reg 2).setWidth 32 = 1#32
    ∧ ((start [(2, 0x100000001), (3, 31)]).reg 3).toNat < Ty.s32.width ∧ (start []).reg 3 = 0
    ∧ representable .s32 (valueOf true (low .s32 0xFFFFFFFE) * valueOf true ((3 : Dword).setWidth 32)) := by
  unfold low representable
  decide

theorem witness_ScaleRangeIsFatal :
    ((start [(3, 0xFFFFFFFFFFFFFFFF)]).reg 3).toInt < 0 ∧ (Ty.s32.width : Int) + 32 ≤ ((start [(3, 64)]).reg 3).toInt
    ∧ (Ty.u64.width : Int) + 32 ≤ ((start [(3, 96)]).reg 3).toInt
    ∧ ((start [(3, 0xFFFFFFFFFFFFFFC0)]).reg 3).toInt ≤ -64 ∧ 64 ≤ ((start [(3, 64)]).reg 3).toInt := by decide

/-- The largest quotient that fits and the least that does not: 2^31 - 1 and 2^31 by 1. -/
theorem witness_DivmIdentity :
    valueOf Ty.s32.signed (low .s32 ((start top32).reg 2)) ≠ 0
    ∧ (valueOf true ((start top32).reg 1)).natAbs < limit .s32
    ∧ limit .s32 ≤ (valueOf true ((start [(1, 0x80000000), (2, 1)]).reg 1)).natAbs := by
  unfold low
  decide

/-- n = 2^32 - 3, d = 2 rounds to 2^31 - 1 with a tie; n = 2^32 - 1, d = 2 rounds to 2^31, which does not fit. -/
theorem witness_DivrRoundsToNearest :
    valueOf Ty.s32.signed (low .s32 ((start [(1, 0xFFFFFFFD), (2, 2)]).reg 2)) ≠ 0
    ∧ onNext (exec (.divrS32 .deferred 5 1 2) (start [(1, 0xFFFFFFFD), (2, 2)])) (fun s => decide (s.reg 5 = 0x7FFFFFFF
        ∧ s.readWord 21 = 0)) = true
    ∧ 2147483648 = limit .s32 := by
  unfold low
  decide

theorem witness_DivsrScalesThenRounds :
    valueOf Ty.s32.signed (low .s32 ((start [(1, 7), (2, 4), (3, 1)]).reg 2)) ≠ 0
    ∧ -64 < ((start [(3, 0xFFFFFFFFFFFFFFC1)]).reg 3).toInt ∧ ((start [(3, 63)]).reg 3).toInt < 64
    ∧ (14 : Int) = valueOf true ((start [(1, 7)]).reg 1) * 2 ^ 1 ∧ (0 : Int) ≤ ((start [(3, 1)]).reg 3).toInt
    ∧ representable .s64 14 ∧ (2 * 14 + 4) / (2 * 4) < limit .s32 ∧ ¬representable .s64 (2 ^ 63)
    ∧ ((start [(3, 0xFFFFFFFFFFFFFFFF)]).reg 3).toInt < 0
    ∧ (3 : Int) * 2 ^ 1 ≤ valueOf true ((start [(1, 7)]).reg 1) ∧ valueOf true ((start [(1, 7)]).reg 1) < (3 + 1) * 2 ^ 1 := by
  unfold low representable
  decide

theorem witness_DivisionByZero :
    low .s32 ((start [(2, 0x100000000)]).reg 2) = 0 ∧ low .u64 ((start []).reg 2) = 0 ∧ (start []).tm = false
    ∧ (tested []).tm = true ∧ -64 < ((start [(3, 63)]).reg 3).toInt ∧ ((start [(3, 63)]).reg 3).toInt < 64 := by
  unfold low
  decide

/-- The regions of the start state of the two VDIVL tests. -/
abbrev someRegions : VdivlRegions :=
  { x := ⟨64, 2⟩, y := ⟨80, 1⟩, q := ⟨96, 2⟩, r := some ⟨112, 1⟩, w := ⟨128, 12⟩ }

theorem dividing_regions (msd : Bool) (m : Memory) : (dividing msd m).vdivlRegions 3 1 2 (some 4) 5 6 7 = someRegions := by
  cases msd <;> rfl

/-- A common word of two regions that do not overlap by their bounds. -/
theorem no_shareWord {r q : Region} (h : r.base + r.len ≤ q.base ∨ q.base + q.len ≤ r.base) : ¬shareWord r q := by
  rintro ⟨a, ⟨h1, h2⟩, h3, h4⟩
  omega

theorem someRegions_inside (msd : Bool) (m : Memory) : regionsInside (dividing msd m) someRegions := by
  have h : (dividing msd m).memWords = 256 := by cases msd <;> rfl
  refine ⟨?_, ?_, ?_, ?_, fun r hr => ?_⟩
  all_goals rw [h]
  · decide
  · decide
  · decide
  · decide
  · cases hr
    decide

theorem someRegions_arrangement : arrangement someRegions := by
  refine ⟨.inl (no_shareWord (by decide)), .inl (no_shareWord (by decide)), fun r hr => ?_, no_shareWord (by decide),
    no_shareWord (by decide), no_shareWord (by decide)⟩
  cases hr
  exact ⟨.inl (no_shareWord (by decide)), .inl (no_shareWord (by decide)), no_shareWord (by decide), no_shareWord (by decide)⟩

theorem witness_VdivlOperands :
    onNext (exec (.vdivl false 3 1 2 (some 4) 5 6 7) (dividing false [(64, 12), (65, 0), (80, 7)])) (fun _ => true) = true := by
  decide

/-- Scratch that ends one word above M; a quotient half over the dividend; and the regions of the tests. -/
theorem witness_VdivlChecksRegionsFirst :
    ¬regionsInside ((dividing false []).setReg 5 245) ((State.setReg (dividing false []) 5 245).vdivlRegions 3 1 2 (some 4) 5 6 7)
    ∧ regionsInside ((dividing false []).setReg 5 244) ((State.setReg (dividing false []) 5 244).vdivlRegions 3 1 2 (some 4) 5 6 7)
    ∧ ¬arrangement ((State.setReg (dividing false []) 3 65).vdivlRegions 3 1 2 (some 4) 5 6 7)
    ∧ arrangement ((dividing false []).vdivlRegions 3 1 2 (some 4) 5 6 7) := by
  refine ⟨?_, ?_, ?_, ?_⟩
  · rintro ⟨-, -, -, h, -⟩
    exact absurd h (by decide)
  · refine ⟨by decide, by decide, by decide, by decide, fun r hr => ?_⟩
    cases hr
    decide
  · rintro ⟨h | h, -⟩
    · exact h ⟨65, ⟨by decide, by decide⟩, by decide, by decide⟩
    · exact absurd (congrArg Region.base h) (by decide)
  · rw [dividing_regions]
    exact someRegions_arrangement

theorem witness_VdivlDividesTheVectors :
    regionsInside (dividing true [(64, 0), (65, 15), (80, 4)]) someRegions ∧ arrangement someRegions
    ∧ vecValue true [(64, 0), (65, 15), (80, 4)] someRegions.x ≠ 0 ∧ vecValue true [(64, 0), (65, 15), (80, 4)] someRegions.y ≠ 0 :=
  ⟨someRegions_inside .., someRegions_arrangement, by decide, by decide⟩

theorem witness_VdivlZeroOperand :
    regionsInside (dividing true [(64, 0), (65, 15), (80, 0)]) someRegions ∧ arrangement someRegions
    ∧ vecValue true [(64, 0), (65, 15), (80, 0)] someRegions.y = 0 ∧ vecValue true [(64, 0), (65, 0), (80, 9)] someRegions.x = 0 :=
  ⟨someRegions_inside .., someRegions_arrangement, by decide, by decide⟩

/-- One run that completes and one that is a MEMFAULT. -/
theorem witness_VdivlFrame :
    onNext (exec (.vdivl true 3 1 2 (some 4) 5 6 7) (dividing true [(64, 0), (65, 15), (80, 4)])) (fun s => decide (s.cc = 1)) = true
    ∧ onNext (exec (.vdivl true 3 1 2 (some 4) 5 6 7) (State.setReg (dividing true []) 5 245))
        (fun s => decide (s.hcause = .memFault)) = true
    ∧ ¬inside someRegions.q 98 ∧ ¬inside someRegions.w 140 ∧ ∀ m, someRegions.r = some m → ¬inside m 113 := by
  refine ⟨by decide, by decide, fun h => absurd h.2 (by decide), fun h => absurd h.2 (by decide), fun m hm h => ?_⟩
  cases hm
  exact absurd h.2 (by decide)

/-- Two states that differ in one scratch word. -/
theorem witness_VdivlIgnoresScratch :
    dividing false [(64, 12), (65, 0), (80, 7), (128, 1)]
        = { dividing false [(64, 12), (65, 0), (80, 7)] with
            mem := [(64, 12), (65, 0), (80, 7), (128, 1)], draws := (dividing false [(64, 12), (65, 0), (80, 7)]).draws }
    ∧ (∀ a, ¬inside someRegions.w a → (dividing false [(64, 12), (65, 0), (80, 7), (128, 1)]).readWord a
        = (dividing false [(64, 12), (65, 0), (80, 7)]).readWord a)
    ∧ onNext (exec (.vdivl false 3 1 2 (some 4) 5 6 7) (dividing false [(64, 12), (65, 0), (80, 7)])) (fun _ => true) = true
    ∧ regionsInside (dividing false [(64, 12), (65, 0), (80, 7)]) someRegions := by
  refine ⟨rfl, fun a ha => ?_, by decide, someRegions_inside ..⟩
  have h : a ≠ 128 := by
    rintro rfl
    exact ha ⟨by decide, by decide⟩
  show memWord _ a = memWord _ a
  simp [dividing, memWord, memFind, h]

end Sys2Proof.Tests
end

section
/-! PROOFS of the statements on the whole machine: its invariant, its run state, its counter and event log, what an
instruction changes and leaves unchanged, and the host's transactions (10_state.md). -/

namespace Sys2Proof.Machine

open Sys2Proof.Safety

/-! ### Registers -/

/-- A register that no write of the list names keeps its contents. -/
theorem State.reg_writeRegs_of_not_mem {ws : List RegWrite} {r : Reg} (hr : r ∉ ws.map (fun w => w.1)) (s : State) :
    (s.writeRegs ws).reg r = s.reg r := by
  induction ws generalizing s with
  | nil => rfl
  | cons w ws ih =>
    rw [List.map_cons, List.mem_cons, not_or] at hr
    obtain ⟨hne, hmem⟩ := hr
    rw [State.writeRegs_cons, ih hmem, State.reg_setReg, if_neg (Ne.symm hne)]

/-- The same of the completion. -/
theorem State.reg_complete_of_not_mem {ws : List RegWrite} {r : Reg} (hr : r ∉ ws.map (fun w => w.1)) (s : State) :
    (s.complete ws).reg r = s.reg r := s.reg_writeRegs_of_not_mem hr

/-- An instruction has at most two destination registers (30_encoding.md R83). -/
theorem destinations_length_le_two (i : Instr) : (destinations i).length ≤ 2 := by
  have hdivm (rd : Reg) (re : Option Reg) : (divmDests rd re).length ≤ 2 := by
    cases re <;> simp [divmDests]
  cases i <;> simp [destinations, hdivm]

/-! ### The memory of a VDIVL -/

/-- The regions a VDIVL writes lie in M when its regions are valid (45_vdivl.md R201). -/
theorem vdivlValid_outputs {s : State} {g : VdivlRegions} (h : s.vdivlValid g = true) :
    g.q.base + g.q.len ≤ s.memWords ∧ g.w.base + g.w.len ≤ s.memWords
    ∧ ∀ r, g.r = some r → r.base + r.len ≤ s.memWords := by
  simp only [State.vdivlValid, State.validRegion, Bool.and_eq_true, decide_eq_true_eq] at h
  obtain ⟨⟨⟨⟨-, -⟩, hq⟩, hw⟩, hr⟩ := h
  refine ⟨hq, hw, fun r hgr => ?_⟩
  simpa [hgr, State.validRegion] using hr

/-- A VDIVL keeps the canonical form of M. -/
theorem vdivlWrite_wf {s : State} (h : s.mem.wf) (rnd : Bool) (g : VdivlRegions) :
    Memory.wf (s.vdivlWrite rnd g).mem := by
  unfold State.vdivlWrite
  dsimp only
  split
  · exact vecPut_wf _ (scribble_wf h _) _ _
  · exact vecPut_wf _ (vecPut_wf _ (scribble_wf h _) _ _) _ _

/-- A VDIVL on valid regions lists only words inside M. -/
theorem vdivlWrite_inside {s : State} (h : ∀ e ∈ s.mem, e.1 < s.memWords) (rnd : Bool) {g : VdivlRegions}
    (hv : s.vdivlValid g = true) : ∀ e ∈ (s.vdivlWrite rnd g).mem, e.1 < s.memWords := by
  obtain ⟨hq, hw, hr⟩ := vdivlValid_outputs hv
  unfold State.vdivlWrite
  dsimp only
  split
  · exact vecPut_inside _ (scribble_inside h _ hw) _ _ hq
  · rename_i r hgr
    exact vecPut_inside _ (vecPut_inside _ (scribble_inside h _ hw) _ _ hq) _ _ (hr r hgr)

/-! ### What a completed instruction leaves unchanged -/

/-- The run state, the halt status, PEND and the parameters are the same in both states. -/
structure StatusKept (s s' : State) : Prop where
  runState : s'.runState = s.runState := by rfl
  hcause : s'.hcause = s.hcause := by rfl
  hcc : s'.hcc = s.hcc := by rfl
  hop : s'.hop = s.hop := by rfl
  hec : s'.hec = s.hec := by rfl
  pend : s'.pend = s.pend := by rfl
  params : s'.params = s.params := by rfl

/-- What the invariant says of M is kept: the canonical form, and every listed word inside M. -/
structure MemoryKept (s s' : State) : Prop where
  canonical : s.mem.wf → s'.mem.wf
  inside : (∀ e ∈ s.mem, e.1 < s.memWords) → ∀ e ∈ s'.mem, e.1 < s.memWords

/-- A memory that is the same keeps it. -/
theorem MemoryKept.of_eq {s s' : State} (h : s'.mem = s.mem) : MemoryKept s s' := ⟨h ▸ id, h ▸ id⟩

/-- A store inside M keeps it. -/
theorem MemoryKept.of_store {s s' : State} {a : Nat} {v : Word} (ha : a < s.memWords)
    (h : s'.mem = memInsert s.mem a v) : MemoryKept s s' :=
  ⟨fun hwf => h ▸ memInsert_wf hwf a v, fun hin => h ▸ memInsert_inside hin ha⟩

/-- Instruction `i` has completed (outcome A of 10_state.md R36): CC has stepped, and all that `i` has no business with
is as it was. A field that is not given is shown to be kept by computation. -/
structure Completion (i : Instr) (s s' : State) : Prop where
  cc : s'.cc = s.cc + 1 := by rfl
  status : StatusKept s s' := by exact {}
  memory : MemoryKept s s' := by exact .of_eq rfl
  regs : ∀ r, r ∉ destinations i → s'.reg r = s.reg r := by exact fun _ _ => rfl
  ps : i.opcode ∉ ([0x01, 0x02] : List Opc) → s'.ps = s.ps := by exact fun _ => rfl
  psp : i.opcode ∉ ([0x02, 0x03] : List Opc) → s'.psp = s.psp := by exact fun _ => rfl
  dec : i.opcode ≠ 0x04 → s'.dec = s.dec := by exact fun _ => rfl
  tm : i.opcode ≠ 0x06 → s'.tm = s.tm := by exact fun _ => rfl
  input : s'.input = s.input := by rfl
  replies : s'.replies = s.replies := by rfl
  draws : i.opcode ≠ 0x50 → s'.draws = s.draws := by exact fun _ => rfl
  ev : s'.ev = s.ev ∨ ∃ cause code, s.tm = true ∧ s'.ev = s.ev ++ [.msg cause s.cc i.opcode code false] := by
    exact .inl rfl
  words : i.opcode ≠ 0x50 → ∀ a, (∀ code, reportedCode i s = some code → storeAddress s.current code ≠ some a) →
    s'.readWord a = s.readWord a := by exact fun _ _ _ => rfl

/-- What an instruction does before its register writes: nothing, a test-mode message, or its report's store. -/
inductive Acted (i : Instr) (s : State) : State → Prop where
  | nothing : Acted i s s
  | message (cause : Cause) (code : Code) (tm : s.tm = true) :
      Acted i s (s.log (.msg cause s.cc i.opcode code false))
  | stored (code : Code) (a : Nat) (v : Word) (hcode : reportedCode i s = some code)
      (place : storeAddress s.current code = some a) (inside : a < s.memWords) : Acted i s (s.writeWord a v)

/-- Nothing but the event log and M is touched before the register writes. -/
theorem Acted.frame {i : Instr} {s u : State} (h : Acted i s u) : ∃ ev mem, u = { s with ev := ev, mem := mem } := by
  cases h <;> exact ⟨_, _, rfl⟩

theorem Acted.ev {i : Instr} {s u : State} (h : Acted i s u) :
    u.ev = s.ev ∨ ∃ cause code, s.tm = true ∧ u.ev = s.ev ++ [.msg cause s.cc i.opcode code false] := by
  cases h with
  | nothing => exact .inl rfl
  | message cause code tm => exact .inr ⟨cause, code, tm, rfl⟩
  | stored => exact .inl rfl

theorem Acted.memory {i : Instr} {s u : State} (h : Acted i s u) : MemoryKept s u := by
  cases h with
  | nothing => exact .of_eq rfl
  | message => exact .of_eq rfl
  | stored code a v hcode place inside => exact .of_store inside rfl

/-- Only the word that the report's action stores to may change. -/
theorem Acted.words {i : Instr} {s u : State} (h : Acted i s u) {b : Nat}
    (hb : ∀ code, reportedCode i s = some code → storeAddress s.current code ≠ some b) : u.readWord b = s.readWord b := by
  cases h with
  | nothing => rfl
  | message => rfl
  | stored code a v hcode place inside =>
    have hne : b ≠ a := fun e => hb code hcode (e ▸ place)
    exact (memWord_memInsert s.mem a b v).trans (if_neg hne)

/-- The writes of the destination registers and the CC step then complete the instruction. -/
theorem Acted.completion {i : Instr} {s u : State} (h : Acted i s u) {ws : List RegWrite}
    (hws : ws.map (fun w => w.1) = destinations i) : Completion i s (u.complete ws) := by
  have hev := h.ev
  have hmem := h.memory
  have hwords (b : Nat) := h.words (b := b)
  obtain ⟨ev, mem, rfl⟩ := h.frame
  exact {
    cc := by simp
    status := by constructor <;> simp
    memory := ⟨by simpa using hmem.canonical, by simpa using hmem.inside⟩
    regs := fun r hr => State.reg_complete_of_not_mem (hws ▸ hr) _
    ps := by simp
    psp := by simp
    dec := by simp
    tm := by simp
    input := by simp
    replies := by simp
    draws := by simp
    ev := by simpa using hev
    words := fun _ b hb => (congrArg (memWord · b) (State.complete_mem ws _)).trans (hwords b hb) }

/-! ### The three outcomes of an instruction -/

/-- The causes of a halt that an instruction can raise (60_exceptions.md R231; ILLEGAL and CBABORT are not raised by one). -/
abbrev instrCauses : List Cause := [.terminate, .divZero, .shiftRange, .badAction, .pstackOvf, .memFault]

/-- The outcomes A, B and C of 10_state.md R36. -/
inductive InstrOutcome (i : Instr) (s : State) : State → Prop where
  | completed (s' : State) (h : Completion i s s') : InstrOutcome i s s'
  | halted (cause : Cause) (ec : Code) (hc : cause ∈ instrCauses) : InstrOutcome i s (haltedBy s cause ec i.opcode)
  | suspended (code : Code) (writes : List RegWrite) (act : s.current.act = .callback)
      (hcode : reportedCode i s = some code) (hws : writes.map (fun w => w.1) = destinations i) :
      InstrOutcome i s { s with
        ev := s.ev ++ [.callback s.current.res s.cc i.opcode code]
        pend := some { opc := i.opcode, code := code, writes := writes }
        runState := .cbwait }

/-- The four ways an instruction outside the policy state and VDIVL ends are outcomes A, B and C. -/
theorem Ends.outcome {i : Instr} {s s' : State} (h : Ends (destinations i) (reportingLevel i) i.opcode s s') :
    InstrOutcome i s s' := by
  cases h with
  | plain ws hws => exact .completed _ (Acted.nothing.completion hws)
  | sentinel cause ec hc tm => exact .completed _ ((Acted.message cause ec tm).completion (sentinels_map _))
  | fatal cause ec hc tm => exact .halted cause ec (by rcases hc with rfl | rfl <;> decide)
  | reported c ws s' hrep hws h =>
    have hcode : reportedCode i s = some (s.checkedCode c) := by simp [reportedCode, hrep]
    rcases reportThenComplete_next h with ⟨tm, rfl⟩ | ⟨a, v, place, inside, rfl⟩ | ⟨-, rfl⟩ | rfl | ⟨act, rfl⟩
    · exact .completed _ ((Acted.message _ _ tm).completion hws)
    · exact .completed _ ((Acted.stored _ a v hcode place inside).completion hws)
    · exact .halted .terminate _ (by decide)
    · exact .halted .memFault _ (by decide)
    · exact .suspended _ ws act hcode hws

/-- A VDIVL on valid regions completes. -/
theorem vdivlWrite_completion {s : State} {rnd : Bool} {rq rx ry : Reg} {rr : Option Reg} {rw rnx rny : Reg}
    (hv : s.vdivlValid (s.vdivlRegions rq rx ry rr rw rnx rny) = true) :
    Completion (.vdivl rnd rq rx ry rr rw rnx rny) s
      (s.vdivlWrite rnd (s.vdivlRegions rq rx ry rr rw rnx rny)).stepCC := by
  have hmem : MemoryKept s (s.vdivlWrite rnd (s.vdivlRegions rq rx ry rr rw rnx rny)) :=
    ⟨fun h => vdivlWrite_wf h _ _, fun h => vdivlWrite_inside h _ hv⟩
  rw [vdivlWrite_eq]
  exact { memory := ⟨hmem.canonical, hmem.inside⟩, draws := fun h => absurd rfl h, words := fun h => absurd rfl h }

/-- Every instruction that answers a next state has one of the outcomes A, B and C. -/
theorem exec_outcome {i : Instr} {s s' : State} (h : exec i s = .next s') : InstrOutcome i s s' := by
  rcases exec_next h with h | ⟨act, ra, rfl, ⟨r, rfl⟩ | rfl⟩ | ⟨act, ra, rfl, ⟨r, hlt, rfl⟩ | rfl | rfl⟩
    | ⟨rfl, p, -, rfl⟩ | ⟨c, rfl, rfl⟩ | ⟨b, rfl, rfl⟩ | ⟨rnd, rq, rx, ry, rr, rw, rnx, rny, rfl, ⟨hv, rfl⟩ | rfl⟩
  · exact h.outcome
  -- PSET
  · exact .completed _ { ps := fun h => absurd (.head _) h }
  · exact .halted .badAction 0 (by decide)
  -- PPUSH
  · exact .completed _ { ps := fun h => absurd (.tail _ (.head _)) h, psp := fun h => absurd (.head _) h }
  · exact .halted .pstackOvf 0 (by decide)
  · exact .halted .badAction 0 (by decide)
  -- PPOP, SDEC, TMSET
  · exact .completed _ { psp := fun h => absurd (.tail _ (.head _)) h }
  · exact .completed _ { dec := fun h => absurd rfl h }
  · exact .completed _ { tm := fun h => absurd rfl h }
  -- VDIVL
  · exact .completed _ (vdivlWrite_completion hv)
  · exact .halted .memFault 0 (by decide)

end Sys2Proof.Machine

namespace Sys2Proof.Safety

open Sys2Proof.Machine

/-! ### The machine invariant -/

/-- The invariant does not speak of the queue of transactions. -/
theorem Inv.withInput {s : State} (h : Inv s) (rest : List HostTxn) : Inv { s with input := rest } :=
  ⟨h.memCanonical, h.memInside, h.pendInCbwait, h.pendShort, h.causeInHalted, h.statusWhileRunning⟩

/-- A change that keeps the run state, the halt status and PEND, and what is said of M, keeps the invariant. -/
theorem Inv.of_kept {s s' : State} (h : Inv s) (hk : StatusKept s s') (hm : MemoryKept s s') : Inv s' := by
  obtain ⟨hrun, hcause, hcc, hop, hec, hpend, hparams⟩ := hk
  constructor
  · exact hm.canonical h.memCanonical
  · simpa only [State.memWords, hparams] using hm.inside h.memInside
  · simpa only [hrun, hpend] using h.pendInCbwait
  · simpa only [hpend] using h.pendShort
  · simpa only [hrun, hcause] using h.causeInHalted
  · simpa only [hrun, hcc, hop, hec] using h.statusWhileRunning

/-- No instruction is pending in a state that does not wait for a reply. -/
theorem Inv.pend_none {s : State} (h : Inv s) (hr : s.runState ≠ .cbwait) : s.pend = none := by
  have hp : ¬s.pend.isSome = true := fun hp => hr (h.pendInCbwait.1 hp)
  simpa using hp

/-- A halt of a running unit with a cause keeps the invariant. -/
theorem Inv.after_halt {s : State} (h : Inv s) (hr : s.runState = .run) {cause : Cause} (hc : cause ≠ .none) (ec : Code)
    (opc : Opc) : Inv (haltedBy s cause ec opc) := by
  have hp : s.pend = none := h.pend_none (by simp [hr])
  exact {
    memCanonical := h.memCanonical
    memInside := h.memInside
    pendInCbwait := by simp [haltedBy, hp]
    pendShort := by simp [haltedBy, hp]
    causeInHalted := by simpa [haltedBy] using hc
    statusWhileRunning := by simp [haltedBy] }

/-- A running unit has no halt cause. -/
theorem Inv.hcause_none {s : State} (h : Inv s) (hr : s.runState ≠ .halted) : s.hcause = .none := by
  by_contra hc
  exact hr (h.causeInHalted.1 hc)

/-- An instruction executed in RUN keeps the invariant. -/
theorem Inv.after_exec {i : Instr} {s s' : State} (h : Inv s) (hr : s.runState = .run) (he : exec i s = .next s') :
    Inv s' := by
  cases exec_outcome he with
  | completed _ hc => exact h.of_kept hc.status hc.memory
  | halted cause ec hc => exact h.after_halt hr (by rintro rfl; exact absurd hc (by decide)) ec _
  | suspended code writes act hcode hws =>
    have hlen : writes.length ≤ 2 := by
      have := destinations_length_le_two i
      rwa [← hws, List.length_map] at this
    exact {
      memCanonical := h.memCanonical
      memInside := h.memInside
      pendInCbwait := by simp
      pendShort := by simpa using hlen
      causeInHalted := by simp [h.hcause_none (by simp [hr])]
      statusWhileRunning := fun _ => h.statusWhileRunning (by simp [hr]) }

/-- The reply *resume* keeps the invariant. -/
theorem Inv.after_resume {s : State} (h : Inv s) (hr : s.runState = .cbwait) (p : Pending) : Inv (s.resume p) := by
  have hne : s.runState ≠ .halted := by simp [hr]
  exact {
    memCanonical := by simpa [State.resume] using h.memCanonical
    memInside := by simpa [State.resume, State.memWords] using h.memInside
    pendInCbwait := by simp [State.resume]
    pendShort := by simp [State.resume]
    causeInHalted := by simp [State.resume, h.hcause_none hne]
    statusWhileRunning := by simpa [State.resume] using h.statusWhileRunning hne }

/-- The reply *abort* keeps the invariant. -/
theorem Inv.after_abort {s : State} (h : Inv s) (p : Pending) : Inv (s.abort p) where
  memCanonical := h.memCanonical
  memInside := h.memInside
  pendInCbwait := by simp [State.abort]
  pendShort := by simp [State.abort]
  causeInHalted := by simp [State.abort]
  statusWhileRunning := by simp [State.abort]

/-- The transaction Reset keeps the invariant. -/
theorem Inv.after_reset {s : State} (h : Inv s) : Inv s.resetUnit where
  memCanonical := h.memCanonical
  memInside := h.memInside
  pendInCbwait := by simp [State.reset]
  pendShort := by simp [State.reset]
  causeInHalted := by simp [State.reset]
  statusWhileRunning := by simp [State.reset]

/-- Every transaction that answers a next state keeps the invariant. -/
theorem Inv.after_transaction {s s' : State} {t : HostTxn} (h : Inv s) (ht : Transacted s t s') : Inv s' := by
  cases ht with
  | reset => exact h.after_reset
  | writeReg i v => exact h.of_kept {} (.of_eq rfl)
  | readReg i => exact h.of_kept {} (.of_eq rfl)
  | writeMem a v run inside => exact h.of_kept {} (.of_store inside rfl)
  | readMem a => exact h.of_kept {} (.of_eq rfl)
  | executed w i _ run hd he => exact h.after_exec run he
  | illegal w e run => exact h.after_halt run (by decide) 0 _
  | ignored w => exact h
  | readStatus => exact h.of_kept {} (.of_eq rfl)
  | readEvents => exact h.of_kept {} (.of_eq rfl)
  | resumed p waiting => exact h.after_resume waiting p
  | aborted p => exact h.after_abort p

end Sys2Proof.Safety

namespace Sys2Proof.Proofs

open Sys2Proof.Machine Sys2Proof.Safety

/-- Settles O14: by the transaction that the step performs; an instruction by its outcome. -/
theorem stepKeepsInvariant : Obligations.StepKeepsInvariant := by
  intro s s' hinv h
  rcases step_next h with ⟨-, rfl⟩ | ⟨t, rest, -, ht⟩
  · exact hinv
  · exact (hinv.withInput rest).after_transaction ht

/-- Settles O15: the unit runs, with nothing pending, no halt status and no word of M listed. -/
theorem resetMeetsInvariant : Obligations.ResetMeetsInvariant where
  memCanonical := reset_mem_wf
  memInside := by simp [State.reset]
  pendInCbwait := by decide
  pendShort := by simp [State.reset]
  causeInHalted := by decide
  statusWhileRunning := fun _ => ⟨rfl, rfl, rfl⟩

/-- Settles O9: the three outcomes, with RUN and the CC step read off the completion. -/
theorem instructionOutcomes : Obligations.InstructionOutcomes := by
  intro i s s' hr h
  cases exec_outcome h with
  | completed _ hc => exact .inl ⟨hc.status.runState.trans hr, hc.cc⟩
  | halted cause ec hc => exact .inr (.inl ⟨cause, ec, hc, rfl⟩)
  | suspended code writes act hcode hws => exact .inr (.inr ⟨code, writes, act, hcode, hws, rfl⟩)

/-- Settles O10: an instruction that is in RUN afterwards has neither halted nor suspended. -/
theorem completionFrame : Obligations.CompletionFrame := by
  intro i s s' _ h hrun hv
  cases exec_outcome h with
  | completed _ hc =>
    obtain ⟨-, hstatus, -, hregs, hps, hpsp, hdec, htm, hinput, hreplies, hdraws, hev, hwords⟩ := hc
    exact ⟨hregs, hps, hpsp, hdec, htm, hstatus.hcause, hstatus.hcc, hstatus.hop, hstatus.hec, hstatus.pend,
      hstatus.params, hinput, hreplies, hdraws hv, hev, hwords hv⟩
  | halted => cases hrun
  | suspended => cases hrun

end Sys2Proof.Proofs
end

section
/-! PROOFS of the statements on the step: the run state, the counter, the event log, and the host's transactions. -/

namespace Sys2Proof

/-! ### The opcode of a decoded word -/

/-- Every instruction that the decoder answers has the opcode `opc`. -/
def YieldsOpcode (opc : Opc) (r : Except Illegal Instr) : Prop := ∀ i, r = .ok i → i.opcode = opc

namespace YieldsOpcode

theorem ok {opc : Opc} {i : Instr} (h : i.opcode = opc) : YieldsOpcode opc (.ok i) := by
  rintro _ ⟨⟩
  exact h

theorem error (opc : Opc) (e : Illegal) : YieldsOpcode opc (.error e) := by
  rintro _ ⟨⟩

/-- A test before an answer does not change the opcode. -/
theorem bind {α : Type} {opc : Opc} (x : Except Illegal α) {f : α → Except Illegal Instr}
    (h : ∀ a, YieldsOpcode opc (f a)) : YieldsOpcode opc (x >>= f) := by
  cases x with
  | error e => exact error opc e
  | ok a => exact h a

/-- One row of the opcode map. -/
theorem row {opc k : Opc} {x y : Except Illegal Instr} (hx : YieldsOpcode k x) (hy : YieldsOpcode opc y) :
    YieldsOpcode opc (if opc = k then x else y) := by
  split
  · next h => exact h ▸ hx
  · exact hy

theorem decodeTwo {opc : Opc} {mk : Ty → Level → Reg → Reg → Reg → Instr}
    (h : ∀ t l rd ra rb, (mk t l rd ra rb).opcode = opc) (f : FieldsA) : YieldsOpcode opc (decodeTwo mk f) :=
  bind _ fun _ => bind _ fun _ => ok (h ..)

theorem decodeTwoU {opc : Opc} {mk : Ty → Reg → Reg → Reg → Instr}
    (h : ∀ t rd ra rb, (mk t rd ra rb).opcode = opc) (f : FieldsA) : YieldsOpcode opc (decodeTwoU mk f) :=
  bind _ fun _ => bind _ fun _ => ok (h ..)

theorem decodeThree {opc : Opc} {mk : Ty → Level → Reg → Reg → Reg → Reg → Instr}
    (h : ∀ t l rd ra rb rc, (mk t l rd ra rb rc).opcode = opc) (f : FieldsA) : YieldsOpcode opc (decodeThree mk f) :=
  bind _ fun _ => bind _ fun _ => ok (h ..)

theorem decodeNeg (f : FieldsA) : YieldsOpcode 0x12 (decodeNeg f) :=
  bind _ fun _ => bind _ fun _ => bind _ fun _ => ok (by unfold Instr.neg; split <;> rfl)

theorem decodeMulw (f : FieldsA) : YieldsOpcode 0x30 (decodeMulw f) :=
  bind _ fun _ => bind _ fun _ => bind _ fun _ => ok (by unfold Instr.mulw; split <;> rfl)

theorem decodeDivm (f : FieldsA) : YieldsOpcode 0x40 (decodeDivm f) :=
  bind _ fun _ => bind _ fun _ => bind _ fun _ => ok (by unfold Instr.divm; split <;> rfl)

theorem decodeDivr (f : FieldsA) : YieldsOpcode 0x41 (decodeDivr f) :=
  bind _ fun _ => bind _ fun _ => ok (by unfold Instr.divr; split <;> rfl)

theorem decodeDivsr (f : FieldsA) : YieldsOpcode 0x42 (decodeDivsr f) :=
  bind _ fun _ => bind _ fun _ => ok (by unfold Instr.divsr; split <;> rfl)

/-- Format A: the rows of R79 in their order. -/
theorem decodeA (f : FieldsA) : YieldsOpcode f.opc (decodeA f) :=
  bind _ fun _ =>
    row (decodeTwo (fun t _ _ _ _ => by cases t <;> rfl) f) <|
    row (decodeTwo (fun t _ _ _ _ => by cases t <;> rfl) f) <|
    row (decodeNeg f) <|
    row (decodeTwo (fun t _ _ _ _ => by cases t <;> rfl) f) <|
    row (decodeTwoU (fun t _ _ _ => by cases t <;> rfl) f) <|
    row (decodeTwoU (fun t _ _ _ => by cases t <;> rfl) f) <|
    row (decodeMulw f) <|
    row (decodeThree (fun t _ _ _ _ _ => by cases t <;> rfl) f) <|
    row (decodeThree (fun t _ _ _ _ _ => by cases t <;> rfl) f) <|
    row (decodeDivm f) <|
    row (decodeDivr f) <|
    row (decodeDivsr f) <|
    error _ _

/-- Format P: the rows of R79 in their order. -/
theorem decodeP (f : FieldsP) : YieldsOpcode f.opc (decodeP f) :=
  bind _ fun _ =>
    row (bind _ fun _ => ok rfl) <|
    row (bind _ fun _ => ok rfl) <|
    row (bind _ fun _ => ok rfl) <|
    row (bind _ fun _ => ok rfl) <|
    row (bind _ fun _ => bind _ fun _ => ok rfl) <|
    row (bind _ fun _ => bind _ fun _ => ok rfl) <|
    row (bind _ fun _ => ok rfl) <|
    error _ _

/-- Format V holds VDIVL alone. -/
theorem decodeV (f : FieldsV) : YieldsOpcode 0x50 (decodeV f) := by
  refine bind _ fun _ => ?_
  split
  · exact bind _ fun _ => ok rfl
  · exact ok rfl

end YieldsOpcode

/-- A decoded instruction has the opcode that is the low byte of its word (30_encoding.md R70, R82). -/
theorem opcode_of_decode {w : InstrWord} {i : Instr} (h : decode w = .ok i) : i.opcode = opcOf w := by
  unfold decode at h
  split at h
  · exact YieldsOpcode.decodeP (fieldsP w) i h
  · split at h
    · next hv => exact (YieldsOpcode.decodeV (fieldsV w) i h).trans hv.symm
    · exact YieldsOpcode.decodeA (fieldsA w) i h

end Sys2Proof

namespace Sys2Proof.Machine

open Sys2Proof.Safety

/-! ### What a transaction does to the event log and the parameters -/

/-- A step with a transaction waiting is that transaction. -/
theorem step_transacted {s s' : State} {t : HostTxn} {rest : List HostTxn} (h : step s = .next s')
    (hi : s.input = t :: rest) : Transacted { s with input := rest } t s' := by
  rw [step_cons hi] at h
  exact transact_next h

/-- `s'` has the parameters and the event log of `s`, with at most one event more. -/
structure LogGrows (s s' : State) : Prop where
  params : s'.params = s.params
  ev : ∃ l, s'.ev = s.ev ++ l ∧ l.length ≤ 1

theorem LogGrows.of_eq {s s' : State} (hp : s'.params = s.params) (he : s'.ev = s.ev) : LogGrows s s' :=
  ⟨hp, [], by simpa using he, by simp⟩

theorem LogGrows.of_append {s s' : State} {e : Event} (hp : s'.params = s.params) (he : s'.ev = s.ev ++ [e]) :
    LogGrows s s' := ⟨hp, [e], he, by simp⟩

/-- An instruction logs at most one event. -/
theorem InstrOutcome.logGrows {i : Instr} {s s' : State} (h : InstrOutcome i s s') : LogGrows s s' := by
  cases h with
  | completed _ hc =>
    rcases hc.ev with he | ⟨cause, code, -, he⟩
    · exact .of_eq hc.status.params he
    · exact .of_append hc.status.params he
  | halted => exact .of_append rfl rfl
  | suspended => exact .of_append rfl rfl

/-- Every transaction but Reset logs at most one event. -/
theorem Transacted.logGrows {t : HostTxn} {s s' : State} (h : Transacted s t s') (ht : t ≠ .reset) : LogGrows s s' := by
  cases h with
  | reset => exact absurd rfl ht
  | writeReg => exact .of_eq rfl rfl
  | readReg => exact .of_eq rfl rfl
  | writeMem => exact .of_eq rfl rfl
  | readMem => exact .of_eq rfl rfl
  | executed w i _ run hd he => exact (exec_outcome he).logGrows
  | illegal => exact .of_append rfl rfl
  | ignored => exact .of_eq rfl rfl
  | readStatus => exact .of_eq rfl rfl
  | readEvents => exact .of_eq rfl rfl
  | resumed p => exact .of_eq (State.complete_params p.writes s) (State.complete_ev p.writes s)
  | aborted => exact .of_eq rfl rfl

/-! ### The host's transactions at a step -/

theorem inRun_of_run {s : State} (h : s.runState = .run) (k : Result) : inRun s k = k := by
  simp [inRun, h]

theorem inRun_of_not_run {s : State} (h : s.runState ≠ .run) (k : Result) : inRun s k = .refused .hostContract := by
  unfold inRun
  split
  · next hr => exact absurd hr h
  · rfl
  · rfl

/-- The address test of a host access. -/
theorem validAddress_iff {s : State} {a : Nat} : s.validAddress a = true ↔ a < s.memWords := decide_eq_true_iff

theorem transact_writeReg {s : State} {r : Reg} {v : Dword} (hr : s.runState = .run) :
    transact (.writeReg r.toNat v) s = .next (s.setReg r v) := by
  rw [transact, inRun_of_run hr, writeRegTxn, if_pos r.isLt, BitVec.ofNat_toNat, BitVec.setWidth_eq]

theorem transact_writeReg_of_not_run {s : State} {i : Nat} {v : Dword} (hr : s.runState ≠ .run) :
    transact (.writeReg i v) s = .refused .hostContract := inRun_of_not_run hr _

theorem transact_writeReg_of_large {s : State} {i : Nat} {v : Dword} (hi : 16 ≤ i) :
    transact (.writeReg i v) s = .refused .hostContract := by
  rw [transact, writeRegTxn, if_neg (Nat.not_lt.2 hi)]
  unfold inRun
  split <;> rfl

theorem transact_readReg (s : State) (r : Reg) :
    transact (.readReg r.toNat) s = .next (s.answer (.reg (s.reg r))) := by
  rw [transact, readRegTxn, if_pos r.isLt, BitVec.ofNat_toNat, BitVec.setWidth_eq]

theorem transact_readReg_of_large {s : State} {i : Nat} (hi : 16 ≤ i) :
    transact (.readReg i) s = .refused .hostContract := if_neg (Nat.not_lt.2 hi)

theorem transact_writeMem {s : State} {a : Nat} {v : Word} (hr : s.runState = .run) (ha : a < s.memWords) :
    transact (.writeMem a v) s = .next (s.writeWord a v) := by
  rw [transact, inRun_of_run hr, writeMemTxn, if_pos (validAddress_iff.2 ha)]

theorem transact_writeMem_of_not_run {s : State} {a : Nat} {v : Word} (hr : s.runState ≠ .run) :
    transact (.writeMem a v) s = .refused .hostContract := inRun_of_not_run hr _

theorem transact_writeMem_outside {s : State} {a : Nat} {v : Word} (hr : s.runState = .run) (ha : s.memWords ≤ a) :
    transact (.writeMem a v) s = .refused (.hostAddress a) := by
  rw [transact, inRun_of_run hr, writeMemTxn, if_neg (mt validAddress_iff.1 (Nat.not_lt.2 ha))]

theorem transact_readMem {s : State} {a : Nat} (ha : a < s.memWords) :
    transact (.readMem a) s = .next (s.answer (.mem (s.readWord a))) := if_pos (validAddress_iff.2 ha)

theorem transact_readMem_outside {s : State} {a : Nat} (ha : s.memWords ≤ a) :
    transact (.readMem a) s = .refused (.hostAddress a) := if_neg (mt validAddress_iff.1 (Nat.not_lt.2 ha))

theorem transact_issue_of_cbwait {s : State} {w : InstrWord} (hr : s.runState = .cbwait) :
    transact (.issue w) s = .refused .hostContract := by
  simp [transact, issue, hr]

theorem transact_callbackReply_of_not_cbwait {s : State} {r : CallbackAnswer} (hr : s.runState ≠ .cbwait) :
    transact (.callbackReply r) s = .refused .hostContract := by
  simp only [transact, callbackReplyTxn]
  split
  · rfl
  · rfl
  · next hw => exact absurd hw hr

/-- Issue in RUN of a word that decodes executes the instruction. -/
theorem transact_issue_of_decode {s : State} {w : InstrWord} {i : Instr} (hr : s.runState = .run) (hd : decode w = .ok i) :
    transact (.issue w) s = exec i s := by
  simp [transact, issue, hr, issueInRun, hd]

end Sys2Proof.Machine

namespace Sys2Proof.Proofs

open Sys2Proof.Machine Sys2Proof.Safety

/-- Settles O8: by the transaction that the step performs; an instruction by its outcome. -/
theorem runStateTransitions : Obligations.RunStateTransitions := by
  intro s s' h
  rcases step_next h with ⟨-, rfl⟩ | ⟨t, rest, hi, ht⟩
  · exact .inl rfl
  cases ht with
  | reset => exact .inr ⟨_, rest, hi, .inr (.inr (.inr (.inr ⟨rfl, rfl⟩)))⟩
  | writeReg => exact .inl rfl
  | readReg => exact .inl rfl
  | writeMem => exact .inl rfl
  | readMem => exact .inl rfl
  | executed w i _ run hd he =>
    have hopc : i.opcode = w.extractLsb' 0 8 := opcode_of_decode hd
    cases exec_outcome he with
    | completed _ hc => exact .inl hc.status.runState
    | halted cause ec => exact .inr ⟨_, rest, hi, .inl ⟨run, rfl, w, cause, ec, rfl, by rw [hopc]⟩⟩
    | suspended code => exact .inr ⟨_, rest, hi, .inr (.inl ⟨run, rfl, w, code, rfl, by rw [hopc]; rfl⟩)⟩
  | illegal w e run => exact .inr ⟨_, rest, hi, .inl ⟨run, rfl, w, .illegal, 0, rfl, rfl⟩⟩
  | ignored => exact .inl rfl
  | readStatus => exact .inl rfl
  | readEvents => exact .inl rfl
  | resumed p waiting => exact .inr ⟨_, rest, hi, .inr (.inr (.inl ⟨waiting, rfl, rfl⟩))⟩
  | aborted p waiting => exact .inr ⟨_, rest, hi, .inr (.inr (.inr (.inl ⟨waiting, rfl, rfl⟩)))⟩

/-- Settles O12: by the transaction that the step performs; CC tells the outcomes of an instruction apart. -/
theorem counterCountsCompletions : Obligations.CounterCountsCompletions := by
  intro s s' h
  refine ⟨fun hi => ?_, fun t rest hi => ?_⟩
  · rw [step_nil hi] at h
    cases h
    rfl
  cases step_transacted h hi with
  | reset => rfl
  | writeReg => rfl
  | readReg => rfl
  | writeMem => rfl
  | readMem => rfl
  | executed w i _ run hd he =>
    cases exec_outcome he with
    | completed _ hc => exact hc.cc.trans (if_pos ⟨run, hc.status.runState.trans run⟩).symm
    | halted => simp [haltedBy]
    | suspended => simp
  | illegal => simp [haltedBy]
  | ignored w halted => exact (if_neg fun hr => absurd (hr.1.symm.trans halted) (by decide)).symm
  | readStatus => rfl
  | readEvents => rfl
  | resumed p => exact State.complete_cc p.writes _
  | aborted => rfl

/-- Settles O13: Reset empties the log, every other transaction adds at most one event. -/
theorem eventLogOnlyGrows : Obligations.EventLogOnlyGrows := by
  intro s s' h
  rcases step_next h with ⟨hi, rfl⟩ | ⟨t, rest, hi, ht⟩
  · exact ⟨rfl, fun ⟨rest, hr⟩ => by simp [hi] at hr, fun _ => ⟨[], by simp, by simp⟩⟩
  by_cases hreset : t = .reset
  · subst hreset
    cases ht
    exact ⟨rfl, fun _ => rfl, fun hne => absurd hi (hne rest)⟩
  · obtain ⟨hparams, hev⟩ := ht.logGrows hreset
    refine ⟨hparams, fun ⟨rest', hr⟩ => ?_, fun _ => hev⟩
    rw [hi] at hr
    cases hr
    exact absurd rfl hreset

/-- Settles O1: the step takes the transaction off the input and Issue decodes the word. -/
theorem stepRunsDecodedInstruction : Obligations.StepRunsDecodedInstruction := by
  have hstep (s : State) (w : InstrWord) (rest : List HostTxn) (i : Instr) (hr : s.runState = .run)
      (hi : s.input = .issue w :: rest) (hd : decode w = .ok i) : step s = exec i { s with input := rest } :=
    (step_cons hi).trans (transact_issue_of_decode hr hd)
  refine ⟨hstep, fun s nbits w i hr hd => ?_⟩
  have hd' : decode (BitVec.ofNat 64 (w % 2 ^ nbits)) = .ok i := by
    unfold decodeTableWord at hd
    split at hd
    · next h => exact h.trans (congrArg _ (Option.some.inj hd))
    · cases hd
  exact hstep (s.withFetchWord nbits w) _ s.input i hr rfl hd'

/-- Settles O30: the values of the reset state, and O8's account of the run state. -/
theorem resetTransaction : Obligations.ResetTransaction := by
  have hreg (r : Reg) : State.reset.reg r = 0 := by simp [State.reg, State.reset]
  have hps (k : Fin 5) : State.reset.ps[k] = { act := .terminate, res := 0 } := by
    simp [State.reset, PolicyRecord.atReset]
  refine ⟨fun s rest hi => ?_, fun s s' hh h hne => ?_, hreg, rfl, rfl, hps, rfl, rfl, rfl, rfl, rfl, rfl, rfl, rfl, rfl⟩
  · exact ⟨State.resetUnit { s with input := rest }, step_cons hi, hreg, rfl, rfl, hps, rfl, rfl, rfl, rfl, rfl, rfl, rfl,
      rfl, rfl, rfl, rfl⟩
  · rcases runStateTransitions s s' h with hk | ⟨t, rest, hi, ⟨hr, -⟩ | ⟨hr, -⟩ | ⟨hr, -⟩ | ⟨hr, -⟩ | ⟨-, rfl⟩⟩
    · exact absurd (hk.trans hh) hne
    · simp [hh] at hr
    · simp [hh] at hr
    · simp [hh] at hr
    · simp [hh] at hr
    · exact ⟨rest, hi⟩

/-- Settles O31: each read and write at the front of the input is its transaction. -/
theorem hostReadsAndWrites : Obligations.HostReadsAndWrites := by
  intro s rest
  exact ⟨fun r v hr hi => (step_cons hi).trans (transact_writeReg hr),
    fun a v hr ha hi => ⟨State.writeWord { s with input := rest } a v, (step_cons hi).trans (transact_writeMem hr ha), rfl,
      fun b => memWord_memInsert s.mem a b v⟩,
    fun r hi => (step_cons hi).trans (transact_readReg _ r),
    fun a ha hi => (step_cons hi).trans (transact_readMem ha),
    fun hi => step_cons hi,
    fun hi => step_cons hi⟩

/-- Settles O32: each transaction at the front of the input is refused by its test. -/
theorem hostContractStops : Obligations.HostContractStops := by
  intro s rest
  exact ⟨fun w hr hi => (step_cons hi).trans (transact_issue_of_cbwait hr),
    fun i v hr hi => (step_cons hi).trans (transact_writeReg_of_not_run hr),
    fun i v hlarge hi => (step_cons hi).trans (transact_writeReg_of_large hlarge),
    fun i hlarge hi => (step_cons hi).trans (transact_readReg_of_large hlarge),
    fun a v hr hi => (step_cons hi).trans (transact_writeMem_of_not_run hr),
    fun a v hr ha hi => (step_cons hi).trans (transact_writeMem_outside hr ha),
    fun a ha hi => (step_cons hi).trans (transact_readMem_outside ha),
    fun r hr hi => (step_cons hi).trans (transact_callbackReply_of_not_cbwait hr)⟩

end Sys2Proof.Proofs
end

section
/-! PROOFS of the statement on test mode: an instruction that logs no event reads TM nowhere (10_state.md R27). -/

namespace Sys2Proof.Machine

open Sys2Proof.Safety

/-- The state with TM at a given value. -/
def State.inMode (s : State) (b : Bool) : State := { s with tm := b }

/-- Completion does not look at TM. -/
theorem complete_inMode (s : State) (b : Bool) (ws : List RegWrite) :
    (s.inMode b).complete ws = (s.complete ws).inMode b := by
  have hwrites : (s.inMode b).writeRegs ws = (s.writeRegs ws).inMode b := by
    induction ws generalizing s with
    | nil => rfl
    | cons w ws ih => exact ih (s.setReg w.1 w.2)
  exact congrArg State.stepCC hwrites

/-- What a VDIVL writes does not depend on TM. -/
theorem vdivlWrite_inMode (s : State) (b : Bool) (rnd : Bool) (g : VdivlRegions) :
    (s.inMode b).vdivlWrite rnd g = (s.vdivlWrite rnd g).inMode b := by
  obtain ⟨x, y, q, r, w⟩ := g
  cases r <;> rfl

/-- `o'` is what `o` is, TM apart, where `o` is a next state with the event log of `s`. -/
structure SameInMode (b : Bool) (s : State) (o o' : Result) : Prop where
  same : ∀ s', o = .next s' → s'.ev = s.ev → o' = .next (s'.inMode b)

namespace SameInMode

variable {b : Bool} {s : State}

/-- A next state that does not differ but in TM. -/
theorem next {u u' : State} (h : u' = u.inMode b) : SameInMode b s (.next u) (.next u') := by
  refine ⟨?_⟩
  rintro _ ⟨⟩ -
  exact congrArg _ h

theorem refused (r : Refusal) (o' : Result) : SameInMode b s (.refused r) o' := by
  refine ⟨?_⟩
  rintro _ ⟨⟩

/-- An outcome that logs an event is not compared. -/
theorem logged {u : State} {e : Event} (h : u.ev = s.ev ++ [e]) (o' : Result) : SameInMode b s (.next u) o' := by
  refine ⟨?_⟩
  rintro _ ⟨⟩ hev
  rw [h] at hev
  exact absurd (List.append_right_eq_self.1 hev) (List.cons_ne_nil _ _)

/-- The same test on both sides. -/
theorem ite {c : Prop} [Decidable c] {x x' y y' : Result} (hx : SameInMode b s x x') (hy : SameInMode b s y y') :
    SameInMode b s (if c then x else y) (if c then x' else y') := by
  split
  · exact hx
  · exact hy

theorem complete (ws : List RegWrite) : SameInMode b s (.next (s.complete ws)) (.next ((s.inMode b).complete ws)) :=
  next (complete_inMode s b ws)

/-- The fatal procedure logs an event whether it halts or returns. -/
theorem fatal (cause : Cause) (hc : cause.suppressible = false) (ec : Code) (opc : Opc) (k : State → Result)
    (o' : Result) : SameInMode b s ((fatal cause ec opc s).andThen k) o' := by
  rw [fatal_of_not_suppressible hc]
  exact logged rfl o'

theorem fatalOrSentinel (cause : Cause) (hc : cause.suppressible = true) (ec : Code) (opc : Opc) (dests : List Reg)
    (o' : Result) : SameInMode b s (fatalOrSentinel cause ec opc dests s) o' := by
  rw [fatalOrSentinel_eq hc]
  split
  · exact logged (State.complete_ev _ _) o'
  · exact logged rfl o'

/-- A store that a report makes where its address is valid. -/
theorem storeOrFault (a : Nat) (v : Word) (code : Code) (opc : Opc) (ws : List RegWrite) :
    SameInMode b s
      ((if s.validAddress a then .returned (s.writeWord a v) else Machine.fatal .memFault code opc s : Ended).andThen
        (fun s' => .next (s'.complete ws)))
      ((if (s.inMode b).validAddress a then .returned ((s.inMode b).writeWord a v)
        else Machine.fatal .memFault code opc (s.inMode b) : Ended).andThen (fun s' => .next (s'.complete ws))) := by
  by_cases h : s.validAddress a = true
  · have h' : (s.inMode b).validAddress a = true := h
    rw [if_pos h, if_pos h']
    exact next (complete_inMode (s.writeWord a v) b ws)
  · rw [if_neg h]
    exact fatal .memFault rfl ..

/-- A report without an event is a store, which TM does not change. -/
theorem reportThenComplete (code : Code) (o : Option Action) (opc : Opc) (ws : List RegWrite) :
    SameInMode b s (reportThenComplete code o opc ws s) (reportThenComplete code o opc ws (s.inMode b)) := by
  have hcur : (s.inMode b).current = s.current := rfl
  unfold Machine.reportThenComplete report
  rw [hcur]
  split
  · exact refused _ _
  · unfold terminateAction
    split
    · exact logged (State.complete_ev _ _) _
    · exact fatal .terminate rfl ..
  · exact storeOrFault ..
  · unfold setFlagAction
    split
    · exact refused _ _
    · exact storeOrFault ..
  · exact logged rfl _

theorem finishChecked (c : Checked) (ovf : Bool) (opc : Opc) (plain satv : List RegWrite) :
    SameInMode b s (finishChecked c ovf opc plain satv s) (finishChecked c ovf opc plain satv (s.inMode b)) := by
  cases ovf with
  | false => exact complete plain
  | true => exact reportThenComplete (s.checkedCode c) _ opc satv

theorem finish (l : Level) (ovf : Bool) (opc : Opc) (plain satv : List RegWrite) :
    SameInMode b s (finish l ovf opc plain satv s) (finish l ovf opc plain satv (s.inMode b)) := by
  cases l with
  | unchecked => exact complete plain
  | checked c => exact finishChecked c ovf opc plain satv

theorem withAmount (n : Int) (limit : Nat) (ec : Code) (opc : Opc) (rd : Reg) {k k' : Nat → Result}
    (hk : ∀ m, SameInMode b s (k m) (k' m)) :
    SameInMode b s (withAmount n limit ec opc rd s k) (withAmount n limit ec opc rd (s.inMode b) k') :=
  ite (hk _) (fatalOrSentinel .shiftRange rfl ..)

/-! Each family of instructions: the operands, the code and the overflow test do not depend on TM. -/

theorem addTyped (t : Ty) (l : Level) (rd ra rb : Reg) :
    SameInMode b s (addTyped t l rd ra rb s) (addTyped t l rd ra rb (s.inMode b)) := finish ..

theorem subTyped (t : Ty) (l : Level) (rd ra rb : Reg) :
    SameInMode b s (subTyped t l rd ra rb s) (subTyped t l rd ra rb (s.inMode b)) := finish ..

theorem negTyped (t : Ty) (l : Level) (rd ra : Reg) :
    SameInMode b s (negTyped t l rd ra s) (negTyped t l rd ra (s.inMode b)) := finish ..

theorem shlTyped (t : Ty) (l : Level) (rd ra rb : Reg) :
    SameInMode b s (shlTyped t l rd ra rb s) (shlTyped t l rd ra rb (s.inMode b)) :=
  withAmount _ _ (s.levelCode l) _ _ fun _ => finish ..

theorem shrTyped (t : Ty) (rd ra rb : Reg) :
    SameInMode b s (shrTyped t rd ra rb s) (shrTyped t rd ra rb (s.inMode b)) :=
  withAmount _ _ _ _ _ fun _ => complete _

theorem shrrTyped (t : Ty) (rd ra rb : Reg) :
    SameInMode b s (shrrTyped t rd ra rb s) (shrrTyped t rd ra rb (s.inMode b)) :=
  withAmount _ _ _ _ _ fun _ => complete _

theorem mulwTyped (t : Ty) (rd ra rb : Reg) :
    SameInMode b s (mulwTyped t rd ra rb s) (mulwTyped t rd ra rb (s.inMode b)) := complete _

theorem msTyped (t : Ty) (l : Level) (rd ra rb rc : Reg) :
    SameInMode b s (msTyped t l rd ra rb rc s) (msTyped t l rd ra rb rc (s.inMode b)) :=
  withAmount _ _ (s.levelCode l) _ _ fun _ => finish ..

theorem msrTyped (t : Ty) (l : Level) (rd ra rb rc : Reg) :
    SameInMode b s (msrTyped t l rd ra rb rc s) (msrTyped t l rd ra rb rc (s.inMode b)) :=
  withAmount _ _ (s.levelCode l) _ _ fun _ => finish ..

theorem divmTyped (t : Ty) (c : Checked) (rd : Reg) (re : Option Reg) (ra rb : Reg) :
    SameInMode b s (divmTyped t c rd re ra rb s) (divmTyped t c rd re ra rb (s.inMode b)) :=
  ite (fatalOrSentinel .divZero rfl ..) (finishChecked ..)

theorem divrTyped (t : Ty) (c : Checked) (rd ra rb : Reg) :
    SameInMode b s (divrTyped t c rd ra rb s) (divrTyped t c rd ra rb (s.inMode b)) :=
  ite (complete _) (finishChecked ..)

theorem divsrTyped (t : Ty) (c : Checked) (rd ra rb rc : Reg) :
    SameInMode b s (divsrTyped t c rd ra rb rc s) (divsrTyped t c rd ra rb rc (s.inMode b)) :=
  ite (fatalOrSentinel .shiftRange rfl ..) (ite (fatalOrSentinel .divZero rfl ..) (finishChecked ..))

theorem execPset (act : BitVec 4) (ra : Reg) :
    SameInMode b s (execPset act ra s) (execPset act ra (s.inMode b)) := by
  unfold Machine.execPset
  cases actionOf act with
  | none => exact fatal .badAction rfl ..
  | some a => exact next rfl

theorem execPpush (act : BitVec 4) (ra : Reg) :
    SameInMode b s (execPpush act ra s) (execPpush act ra (s.inMode b)) := by
  by_cases h : s.psp.val + 1 < Config.psDepth
  · have h' : (s.inMode b).psp.val + 1 < Config.psDepth := h
    simp only [Machine.execPpush, dif_pos h, dif_pos h']
    cases actionOf act with
    | none => exact fatal .badAction rfl ..
    | some a => exact next rfl
  · simp only [Machine.execPpush, dif_neg h]
    exact fatal .pstackOvf rfl ..

theorem execVdivl (rnd : Bool) (rq rx ry : Reg) (rr : Option Reg) (rw rnx rny : Reg) :
    SameInMode b s (execVdivl rnd rq rx ry rr rw rnx rny s) (execVdivl rnd rq rx ry rr rw rnx rny (s.inMode b)) := by
  refine ite (refused _ _) ?_
  by_cases h : s.vdivlValid (s.vdivlRegions rq rx ry rr rw rnx rny) = true
  · have h' : (s.inMode b).vdivlValid ((s.inMode b).vdivlRegions rq rx ry rr rw rnx rny) = true := h
    rw [if_pos h, if_pos h', vdivlWrite_inMode]
    exact next rfl
  · rw [if_neg h]
    exact logged rfl _

end SameInMode

/-- Every instruction but TMSET and TMGET does the same in either mode where it logs no event. -/
theorem exec_sameInMode {i : Instr} (hi : i.opcode ∉ ([0x06, 0x07] : List Opc)) (b : Bool) (s : State) :
    SameInMode b s (exec i s) (exec i (s.inMode b)) := by
  cases i with
  | pset act ra => exact .execPset act ra
  | ppush act ra => exact .execPpush act ra
  | ppop => exact .next rfl
  | sdec code => exact .next rfl
  | report ecf => exact .reportThenComplete ..
  | tmset enabled => exact absurd (.head _) hi
  | tmget rd => exact absurd (.tail _ (.head _)) hi
  | addS32 | addU32 | addS64 | addU64 => exact .addTyped ..
  | subS32 | subU32 | subS64 | subU64 => exact .subTyped ..
  | negS32 | negS64 => exact .negTyped ..
  | shlS32 | shlU32 | shlS64 | shlU64 => exact .shlTyped ..
  | shrS32 | shrU32 | shrS64 | shrU64 => exact .shrTyped ..
  | shrrS32 | shrrU32 | shrrS64 | shrrU64 => exact .shrrTyped ..
  | mulwS32 | mulwU32 => exact .mulwTyped ..
  | msS32 | msU32 | msS64 | msU64 => exact .msTyped ..
  | msrS32 | msrU32 | msrS64 | msrU64 => exact .msrTyped ..
  | divmS32 | divmU32 | divmS64 | divmU64 => exact .divmTyped ..
  | divrS32 | divrU32 | divrS64 | divrU64 => exact .divrTyped ..
  | divsrS32 | divsrU32 | divsrS64 | divsrU64 => exact .divsrTyped ..
  | vdivl => exact .execVdivl ..

end Sys2Proof.Machine

namespace Sys2Proof.Proofs

open Sys2Proof.Machine Sys2Proof.Safety

/-- Settles O17: no instruction but TMSET and TMGET reads TM without logging an event. -/
theorem testModeIsOtherwiseInvisible : Obligations.TestModeIsOtherwiseInvisible :=
  fun _ s s' b _ hi h _ hev => (exec_sameInMode hi b s).same s' h hev

end Sys2Proof.Proofs
end

section
/-! PROOFS of the statements on memory: reads and writes, the canonical form, and digit vectors (20_memory.md). -/

namespace Sys2Proof.Machine

open Sys2Proof.Safety

/-! ### The canonical form (R57, log 5) -/

/-- Writing the same word twice is writing it once. -/
@[simp] theorem memInsert_memInsert_self (m : Memory) (a : Nat) (v : Word) :
    memInsert (memInsert m a v) a v = memInsert m a v := by
  induction m with
  | nil => simp [memInsert]
  | cons p rest ih =>
    obtain ⟨b, w⟩ := p
    by_cases hlt : a < b
    · simp [memInsert, hlt]
    · by_cases heq : a = b
      · simp [memInsert, heq]
      · simp [memInsert, hlt, heq, ih]

/-- A canonical memory lists each address once, so a lookup finds exactly its entries. -/
theorem memFind_eq_some_iff {m : Memory} (h : m.wf) (a : Nat) (w : Word) : memFind m a = some w ↔ (a, w) ∈ m := by
  induction m with
  | nil => simp [memFind]
  | cons p rest ih =>
    obtain ⟨b, u⟩ := p
    obtain ⟨hhead, hrest⟩ := List.pairwise_cons.1 h
    by_cases hab : a = b
    · subst hab
      have hnot : (a, w) ∉ rest := fun hmem => Nat.lt_irrefl a (hhead _ hmem)
      simp [memFind, hnot, eq_comm]
    · simp [memFind, hab, ih hrest]

/-- Canonical memories that list the same words are the same list. -/
theorem memory_ext {m n : Memory} (hm : m.wf) (hn : n.wf) (h : ∀ a, memFind m a = memFind n a) : m = n := by
  have hirrefl : Std.Irrefl (fun x y : Nat × Word => x.1 < y.1) := ⟨fun x => Nat.lt_irrefl x.1⟩
  have hantisymm : Std.Antisymm (fun x y : Nat × Word => x.1 < y.1) :=
    ⟨fun _ _ hxy hyx => absurd hxy (Nat.lt_asymm hyx)⟩
  refine hm.eq_of_mem_iff hn fun ⟨a, w⟩ => ?_
  rw [← memFind_eq_some_iff hm, ← memFind_eq_some_iff hn, h]

/-! ### Digit vectors (R53) -/

/-- The lowest digit of a row of digits, split off. -/
theorem digitsValue_map_range_succ (d : Nat → Word) (n : Nat) :
    digitsValue ((List.range (n + 1)).map d) = (d 0).toNat + 2 ^ 32 * digitsValue ((List.range n).map fun i => d (i + 1)) := by
  rw [List.range_succ_eq_map, List.map_cons, List.map_map]
  rfl

/-- The value of a row of digits is their sum, each weighted by its power of the radix. -/
theorem digitsValue_map_range (d : Nat → Word) (n : Nat) :
    digitsValue ((List.range n).map d) = ((List.range n).map (fun i => (d i).toNat * 2 ^ (32 * i))).sum := by
  induction n generalizing d with
  | zero => rfl
  | succ n ih =>
    have hshift : (fun i => (d (i + 1)).toNat * 2 ^ (32 * (i + 1))) =
        fun i => 2 ^ 32 * ((d (i + 1)).toNat * 2 ^ (32 * i)) := by
      funext i
      rw [Nat.mul_add_one, Nat.pow_add]
      ac_rfl
    rw [digitsValue_map_range_succ, ih, ← List.sum_map_mul_left, ← hshift, List.range_succ_eq_map]
    simp [Function.comp_def]

/-- Digits taken from a number give the number back, modulo what their places can hold. -/
theorem digitsValue_of_digits {n : Nat} {d : Nat → Word} {v : Nat}
    (h : ∀ i, i < n → (d i).toNat = v / 2 ^ (32 * i) % 2 ^ 32) :
    digitsValue ((List.range n).map d) = v % 2 ^ (32 * n) := by
  induction n generalizing d v with
  | zero => simp [digitsValue, Nat.mod_one]
  | succ n ih =>
    have hlow : (d 0).toNat = v % 2 ^ 32 := by simpa using h 0 (Nat.succ_pos n)
    have hhigh : digitsValue ((List.range n).map fun i => d (i + 1)) = v / 2 ^ 32 % 2 ^ (32 * n) := by
      refine ih fun i hi => ?_
      rw [h (i + 1) (Nat.succ_lt_succ hi), Nat.div_div_eq_div_mul, ← Nat.pow_add, Nat.mul_add_one, Nat.add_comm]
    calc digitsValue ((List.range (n + 1)).map d)
        = (d 0).toNat + 2 ^ 32 * digitsValue ((List.range n).map fun i => d (i + 1)) :=
          digitsValue_map_range_succ d n
      _ = v % (2 ^ 32 * 2 ^ (32 * n)) := by rw [hlow, hhigh, ← Nat.mod_mul]
      _ = v % 2 ^ (32 * (n + 1)) := by rw [← Nat.pow_add, Nat.mul_add_one, Nat.add_comm]

/-- Writing a vector puts each digit in its place. -/
theorem memWord_vecPut_digitPos (msd : Bool) (m : Memory) (r : Region) (v : Nat) {i : Nat} (hi : i < r.len) :
    memWord (vecPut msd m r v) (r.base + digitPos msd r.len i) = BitVec.ofNat 32 (v / 2 ^ (32 * i)) :=
  memWord_foldl_of_mem _ (fun i => BitVec.ofNat 32 (v / 2 ^ (Config.digitBits * i))) _ _ i (List.mem_range.2 hi)
    fun _ hj h => digitPos_inj (List.mem_range.1 hj) hi (Nat.add_left_cancel h)

/-- What is read from a vector after a write to it: the value, modulo what the vector can hold. -/
theorem vecValue_vecPut (msd : Bool) (m : Memory) (r : Region) (v : Nat) :
    vecValue msd (vecPut msd m r v) r = v % 2 ^ (32 * r.len) :=
  digitsValue_of_digits fun i hi => by rw [memWord_vecPut_digitPos msd m r v hi, BitVec.toNat_ofNat]

/-- No instruction changes MEM_WORDS or VEC_MSD_FIRST (00_scope.md R5). -/
theorem exec_params {i : Instr} {s s' : State} (h : exec i s = .next s') : s'.params = s.params :=
  (exec_outcome h).logGrows.params

end Sys2Proof.Machine

namespace Sys2Proof.Proofs

open Sys2Proof.Machine Sys2Proof.Safety

/-- Settles O34: a lookup after a write, and the canonical form listing each address once. -/
theorem memoryIsPlainStorage : Obligations.MemoryIsPlainStorage :=
  ⟨fun s a b v => memWord_memInsert s.mem a b v,
    fun s a v => congrArg (fun m => { s with mem := m }) (memInsert_memInsert_self s.mem a v),
    fun _ _ hm hn h => memory_ext hm hn h⟩

/-- Settles O35: the places of the digits differ, so each keeps what `vecPut` wrote to it. -/
theorem digitVectorLayout : Obligations.DigitVectorLayout := by
  refine ⟨fun msd m r => digitsValue_map_range _ _, fun msd m r v => ⟨fun i hi => ?_, fun a ha => ?_, fun hv => ?_⟩,
    fun i s s' h => congrArg _ (exec_params h)⟩
  · exact (congrArg BitVec.toNat (memWord_vecPut_digitPos msd m r v hi)).trans (BitVec.toNat_ofNat ..)
  · refine memWord_vecPut_of_ne msd m r v a ?_
    unfold inside at ha
    omega
  · rw [vecValue_vecPut, Nat.mod_eq_of_lt hv]

end Sys2Proof.Proofs
end

section
/-! PROOFS of the statements on encoding: decoding and encoding are inverse to each other, the illegal words, and the
action numbers that decode but name no action (30_encoding.md). -/

namespace Sys2Proof

open Sys2Proof.Safety

/-! ### What a part of the decoder answers -/

/-- A decoder that goes on after a part answers exactly when the part does and the rest then does. -/
theorem bind_eq_ok {α β ε : Type} {x : Except ε α} {f : α → Except ε β} {b : β} :
    (x >>= f) = .ok b ↔ ∃ a, x = .ok a ∧ f a = .ok b := by
  cases x <;> simp

/-- The same without regard to the answer. -/
theorem exists_bind_eq_ok {α β ε : Type} {x : Except ε α} {f : α → Except ε β} :
    (∃ b, (x >>= f) = .ok b) ↔ ∃ a, x = .ok a ∧ ∃ b, f a = .ok b := by
  cases x <;> simp

@[simp] theorem require_eq_ok {c : Bool} {why : Illegal} {u : Unit} : require c why = .ok u ↔ c = true := by
  cases c <;> simp [require]

/-- The selector of an override determines it (R76). -/
@[simp] theorem overrideOf_eq_ok {sel : BitVec 3} {o : Option Action} : overrideOf sel = .ok o ↔ sel = selBits o := by
  constructor
  · intro h
    unfold overrideOf at h
    split_ifs at h with h0 h1 h2 h3 h4 <;> cases h <;> assumption
  · rintro rfl
    rcases o with _ | _ | _ <;> rfl

theorem ecfOf_eq_ok {sel : BitVec 3} {code : Code} {e : Ecf} :
    ecfOf sel code = .ok e ↔ sel = selBits e.override ∧ code = e.code := by
  obtain ⟨o, c⟩ := e
  simp [ecfOf, bind_eq_ok]

/-- The bits of a level: `chk`, and the error-code field that goes with it (R75, R79). -/
def FieldsA.HasLevel (f : FieldsA) (l : Level) : Prop :=
  f.chk = chkBits l ∧ f.code = codeBits l ∧ f.sel = selOfLevel l

theorem requireNoCode_eq_ok {f : FieldsA} {u : Unit} : requireNoCode f = .ok u ↔ f.code = 0#24 ∧ f.sel = 0#3 := by
  simp [requireNoCode]

theorem checkedOf_eq_ok {f : FieldsA} {c : Checked} : checkedOf f = .ok c ↔ f.HasLevel (.checked c) := by
  constructor
  · intro h
    unfold checkedOf at h
    split_ifs at h with h1 h2
    · obtain ⟨e, he, hc⟩ := bind_eq_ok.1 h
      cases hc
      obtain ⟨hs, hcode⟩ := ecfOf_eq_ok.1 he
      exact ⟨h1, hcode, hs⟩
    · obtain ⟨_, hn, hc⟩ := bind_eq_ok.1 h
      cases hc
      exact ⟨h2, requireNoCode_eq_ok.1 hn⟩
  · rintro ⟨hc, hd, hs⟩
    exact checkedOf_bits c hc hd hs

theorem levelOf_eq_ok {f : FieldsA} {l : Level} : levelOf f = .ok l ↔ f.HasLevel l := by
  constructor
  · intro h
    unfold levelOf at h
    split_ifs at h with h0
    · obtain ⟨_, hn, hl⟩ := bind_eq_ok.1 h
      cases hl
      exact ⟨h0, requireNoCode_eq_ok.1 hn⟩
    · obtain ⟨c, hc, hl⟩ := bind_eq_ok.1 h
      cases hl
      exact checkedOf_eq_ok.1 hc
  · rintro ⟨hc, hd, hs⟩
    exact levelOf_bits l hc hd hs

theorem requireUnchecked_eq_ok {f : FieldsA} {u : Unit} : requireUnchecked f = .ok u ↔ f.HasLevel .unchecked := by
  simp [requireUnchecked, bind_eq_ok, requireNoCode_eq_ok, FieldsA.HasLevel, chkBits, codeBits, selOfLevel]

/-- The bits of an optional remainder (R71, R79). -/
def FieldsA.HasRemainder (f : FieldsA) (r : Option Reg) : Prop := f.re = remainderBits r ∧ f.wr = wrBit r

theorem requireNoRemainder_eq_ok {f : FieldsA} {u : Unit} : requireNoRemainder f = .ok u ↔ f.HasRemainder none := by
  simp [requireNoRemainder, FieldsA.HasRemainder, remainderBits, wrBit]

theorem requireTwoSources_eq_ok {f : FieldsA} {u : Unit} :
    requireTwoSources f = .ok u ↔ f.rc = 0#4 ∧ f.HasRemainder none := by
  simp [requireTwoSources, FieldsA.HasRemainder, remainderBits, wrBit, and_assoc]

theorem bit_cases (b : BitVec 1) : b = 0#1 ∨ b = 1#1 := by
  revert b
  decide

theorem remainderOf_eq_ok {f : FieldsA} {r : Option Reg} :
    remainderOf f = .ok r ↔ remainderApart f.rd r = true ∧ f.HasRemainder r := by
  unfold remainderOf FieldsA.HasRemainder
  rcases bit_cases f.wr with h | h <;>
    cases r <;> simp +contextual [bind_eq_ok, h, remainderBits, wrBit, remainderApart]

theorem tyOf_eq_iff {f : FieldsA} {t : Ty} : tyOf f = t ↔ f.u = uBit t ∧ f.d = dBit t := by
  constructor
  · rintro rfl
    unfold tyOf
    rcases bit_cases f.d with hd | hd <;> rcases bit_cases f.u with hu | hu <;> simp [uBit, dBit, hd, hu]
  · rintro ⟨hu, hd⟩
    exact tyOf_of_bits hu hd

/-! ### Format A: the fields of an instruction -/

/-- The fields of a Format A instruction (R71, R79). -/
def formA (opc : Opc) (t : Ty) (l : Level) (rd : Reg) (re : Option Reg) (ra rb rc : Reg) : FieldsA :=
  { opc := opc, u := uBit t, d := dBit t, chk := chkBits l, rd := rd, ra := ra, rb := rb, rc := rc,
    re := remainderBits re, code := codeBits l, sel := selOfLevel l, wr := wrBit re, zero := 0#4 }

theorem encA_eq_wordA (opc : Opc) (t : Ty) (l : Level) (rd ra rb rc : Reg) :
    encA opc t l rd ra rb rc = wordA (formA opc t l rd none ra rb rc) := rfl

theorem encDivm_eq_wordA (opc : Opc) (t : Ty) (l : Level) (rd : Reg) (re : Option Reg) (ra rb : Reg) :
    encDivm opc t l rd re ra rb = wordA (formA opc t l rd re ra rb 0#4) := rfl

/-- Fields are those of an instruction exactly when each part of the decoder reads the instruction's part of them. -/
theorem eq_formA_iff {f : FieldsA} {t : Ty} {l : Level} {rd : Reg} {re : Option Reg} {ra rb rc : Reg}
    (hz : f.zero = 0#4) :
    f = formA f.opc t l rd re ra rb rc
      ↔ tyOf f = t ∧ f.rd = rd ∧ f.ra = ra ∧ f.rb = rb ∧ f.rc = rc ∧ f.HasRemainder re ∧ f.HasLevel l := by
  rw [tyOf_eq_iff]
  cases f
  subst hz
  simp [formA, FieldsA.HasLevel, FieldsA.HasRemainder, and_comm, and_assoc, and_left_comm]

/-! ### Format A: each shape of instruction is decoded from its fields and from no others -/

theorem decodeTwo_eq_ok {mk : Ty → Level → Reg → Reg → Reg → Instr} {f : FieldsA} {i : Instr} (hz : f.zero = 0#4) :
    decodeTwo mk f = .ok i ↔ ∃ t l rd ra rb, f = formA f.opc t l rd none ra rb 0#4 ∧ mk t l rd ra rb = i := by
  simp [decodeTwo, bind_eq_ok, levelOf_eq_ok, requireTwoSources_eq_ok, eq_formA_iff hz, and_assoc]

theorem decodeTwoU_eq_ok {mk : Ty → Reg → Reg → Reg → Instr} {f : FieldsA} {i : Instr} (hz : f.zero = 0#4) :
    decodeTwoU mk f = .ok i
      ↔ ∃ t rd ra rb, f = formA f.opc t .unchecked rd none ra rb 0#4 ∧ mk t rd ra rb = i := by
  simp [decodeTwoU, bind_eq_ok, requireUnchecked_eq_ok, requireTwoSources_eq_ok, eq_formA_iff hz, and_assoc]

theorem decodeThree_eq_ok {mk : Ty → Level → Reg → Reg → Reg → Reg → Instr} {f : FieldsA} {i : Instr}
    (hz : f.zero = 0#4) :
    decodeThree mk f = .ok i
      ↔ ∃ t l rd ra rb rc, f = formA f.opc t l rd none ra rb rc ∧ mk t l rd ra rb rc = i := by
  simp [decodeThree, bind_eq_ok, levelOf_eq_ok, requireNoRemainder_eq_ok, eq_formA_iff hz, and_assoc]

theorem decodeDivm_eq_ok {f : FieldsA} {i : Instr} (hz : f.zero = 0#4) :
    decodeDivm f = .ok i ↔ ∃ t rd re ra rb, remainderApart rd re = true
      ∧ ∃ c, f = formA f.opc t (.checked c) rd re ra rb 0#4 ∧ Instr.divm t c rd re ra rb = i := by
  simp [decodeDivm, bind_eq_ok, checkedOf_eq_ok, remainderOf_eq_ok, eq_formA_iff hz, and_assoc,
    and_left_comm (b := f.rc = 0#4)]

theorem decodeDivr_eq_ok {f : FieldsA} {i : Instr} (hz : f.zero = 0#4) :
    decodeDivr f = .ok i
      ↔ ∃ t c rd ra rb, f = formA f.opc t (.checked c) rd none ra rb 0#4 ∧ Instr.divr t c rd ra rb = i := by
  simp [decodeDivr, bind_eq_ok, checkedOf_eq_ok, requireTwoSources_eq_ok, eq_formA_iff hz, and_assoc]

theorem decodeDivsr_eq_ok {f : FieldsA} {i : Instr} (hz : f.zero = 0#4) :
    decodeDivsr f = .ok i
      ↔ ∃ t c rd ra rb rc, f = formA f.opc t (.checked c) rd none ra rb rc ∧ Instr.divsr t c rd ra rb rc = i := by
  simp [decodeDivsr, bind_eq_ok, checkedOf_eq_ok, requireNoRemainder_eq_ok, eq_formA_iff hz, and_assoc]

/-- NEG: the type has `U` = 0, and `D` selects its width. -/
theorem decodeNeg_eq_ok {f : FieldsA} {i : Instr} (hz : f.zero = 0#4) :
    decodeNeg f = .ok i
      ↔ ∃ b l rd ra, f = formA f.opc (if b then .s64 else .s32) l rd none ra 0#4 0#4 ∧ Instr.neg b l rd ra = i := by
  rcases bit_cases f.d with h | h <;>
    simp [h, decodeNeg, bind_eq_ok, levelOf_eq_ok, eq_formA_iff hz, and_assoc, tyOf_eq_iff, FieldsA.HasRemainder,
      remainderBits, wrBit, uBit, dBit]

/-- MULW: the type has `D` = 0, and `U` selects its signedness. -/
theorem decodeMulw_eq_ok {f : FieldsA} {i : Instr} (hz : f.zero = 0#4) :
    decodeMulw f = .ok i ↔ ∃ b rd ra rb,
      f = formA f.opc (if b then .u32 else .s32) .unchecked rd none ra rb 0#4 ∧ Instr.mulw b rd ra rb = i := by
  rcases bit_cases f.u with h | h <;>
    simp [h, decodeMulw, bind_eq_ok, requireTwoSources_eq_ok, requireUnchecked_eq_ok, eq_formA_iff hz, and_assoc,
      tyOf_eq_iff, uBit, dBit]

/-! ### Format A: the opcode map -/

/-- The rows of R79 in Format A: an opcode and the shape of its instructions. -/
inductive RowA : Opc → (FieldsA → Except Illegal Instr) → Prop where
  | add : RowA 0x10#8 (decodeTwo .add)
  | sub : RowA 0x11#8 (decodeTwo .sub)
  | neg : RowA 0x12#8 decodeNeg
  | shl : RowA 0x20#8 (decodeTwo .shl)
  | shr : RowA 0x21#8 (decodeTwoU .shr)
  | shrr : RowA 0x22#8 (decodeTwoU .shrr)
  | mulw : RowA 0x30#8 decodeMulw
  | ms : RowA 0x31#8 (decodeThree .ms)
  | msr : RowA 0x32#8 (decodeThree .msr)
  | divm : RowA 0x40#8 decodeDivm
  | divr : RowA 0x41#8 decodeDivr
  | divsr : RowA 0x42#8 decodeDivsr

/-- Every answer is that of a row of the opcode. -/
def AnswersByRow (f : FieldsA) (r : Except Illegal Instr) : Prop :=
  ∀ i, r = .ok i → ∃ d, RowA f.opc d ∧ d f = .ok i

theorem AnswersByRow.row {f : FieldsA} {opc : Opc} {d : FieldsA → Except Illegal Instr} {r : Except Illegal Instr}
    (hd : RowA opc d) (hr : AnswersByRow f r) : AnswersByRow f (if f.opc = opc then d f else r) := by
  intro i h
  split at h
  · next ho => exact ⟨d, ho ▸ hd, h⟩
  · exact hr i h

/-- An opcode outside the map answers nothing. -/
theorem AnswersByRow.error (f : FieldsA) (e : Illegal) : AnswersByRow f (.error e) := by
  rintro _ ⟨⟩

/-- Format A is the test of the bits 63..60, then the row of the opcode. -/
theorem decodeA_of_row {f : FieldsA} {d : FieldsA → Except Illegal Instr} (h : RowA f.opc d) :
    decodeA f = (require (f.zero == 0#4) .reservedBit >>= fun _ => d f) := by
  generalize ho : f.opc = opc at h
  cases h <;> simp [decodeA, ho]

/-- Format A answers where the bits 63..60 are 0 and the row of the opcode answers. -/
theorem decodeA_eq_ok {f : FieldsA} {i : Instr} :
    decodeA f = .ok i ↔ f.zero = 0#4 ∧ ∃ d, RowA f.opc d ∧ d f = .ok i := by
  constructor
  · intro h
    obtain ⟨_, hz, hmap⟩ := bind_eq_ok.1 h
    have hrows : AnswersByRow f _ :=
      .row .add <| .row .sub <| .row .neg <| .row .shl <| .row .shr <| .row .shrr <| .row .mulw <|
      .row .ms <| .row .msr <| .row .divm <| .row .divr <| .row .divsr <| .error f .opcode
    exact ⟨by simpa using hz, hrows i hmap⟩
  · rintro ⟨hz, d, hr, hd⟩
    simp [decodeA_of_row hr, bind_eq_ok, hz, hd]

/-- A row's opcode is one of Format A. -/
theorem RowA.mem_opcodesA {opc : Opc} {d : FieldsA → Except Illegal Instr} (h : RowA opc d) : opc ∈ opcodesA := by
  cases h <;> decide

/-- An opcode of Format A is of no other format. -/
theorem notP_notV_of_mem_opcodesA {opc : Opc} (h : opc ∈ opcodesA) :
    ¬(1 ≤ opc.toNat ∧ opc.toNat ≤ 7) ∧ opc ≠ 0x50#8 := by
  revert opc
  decide

/-- A word of a row is decoded by the row. -/
theorem decode_row {f : FieldsA} {d : FieldsA → Except Illegal Instr} {i : Instr} (hr : RowA f.opc d)
    (hz : f.zero = 0#4) (hd : d f = .ok i) : decode (wordA f) = .ok i := by
  obtain ⟨hp, hv⟩ := notP_notV_of_mem_opcodesA hr.mem_opcodesA
  exact (decode_wordA f hp hv).trans (decodeA_eq_ok.2 ⟨hz, d, hr, hd⟩)

/-! ### The word of a well-formed instruction is decoded to it -/

/-- Decoding the word of a well-formed instruction gives that instruction back. -/
theorem decode_encode {i : Instr} (hwf : i.wellFormed = true) : decode (encode i) = .ok i := by
  cases i with
  | pset | ppush | ppop | sdec | tmget => exact (decode_wordP _ (by simp)).trans rfl
  | report ecf =>
    refine (decode_wordP _ (by simp)).trans ?_
    simp [decodeP, bind_eq_ok, ecfOf_bits]
  | tmset enabled =>
    refine (decode_wordP _ (by simp)).trans ?_
    cases enabled <;> rfl
  | addS32 | addU32 | addS64 | addU64 =>
    exact decode_row .add rfl ((decodeTwo_eq_ok rfl).2 ⟨_, _, _, _, _, rfl, rfl⟩)
  | subS32 | subU32 | subS64 | subU64 =>
    exact decode_row .sub rfl ((decodeTwo_eq_ok rfl).2 ⟨_, _, _, _, _, rfl, rfl⟩)
  | negS32 l => exact decode_row .neg rfl ((decodeNeg_eq_ok rfl).2 ⟨false, _, _, _, rfl, rfl⟩)
  | negS64 l => exact decode_row .neg rfl ((decodeNeg_eq_ok rfl).2 ⟨true, _, _, _, rfl, rfl⟩)
  | shlS32 | shlU32 | shlS64 | shlU64 =>
    exact decode_row .shl rfl ((decodeTwo_eq_ok rfl).2 ⟨_, _, _, _, _, rfl, rfl⟩)
  | shrS32 | shrU32 | shrS64 | shrU64 =>
    exact decode_row .shr rfl ((decodeTwoU_eq_ok rfl).2 ⟨_, _, _, _, rfl, rfl⟩)
  | shrrS32 | shrrU32 | shrrS64 | shrrU64 =>
    exact decode_row .shrr rfl ((decodeTwoU_eq_ok rfl).2 ⟨_, _, _, _, rfl, rfl⟩)
  | mulwS32 => exact decode_row .mulw rfl ((decodeMulw_eq_ok rfl).2 ⟨false, _, _, _, rfl, rfl⟩)
  | mulwU32 => exact decode_row .mulw rfl ((decodeMulw_eq_ok rfl).2 ⟨true, _, _, _, rfl, rfl⟩)
  | msS32 | msU32 | msS64 | msU64 =>
    exact decode_row .ms rfl ((decodeThree_eq_ok rfl).2 ⟨_, _, _, _, _, _, rfl, rfl⟩)
  | msrS32 | msrU32 | msrS64 | msrU64 =>
    exact decode_row .msr rfl ((decodeThree_eq_ok rfl).2 ⟨_, _, _, _, _, _, rfl, rfl⟩)
  | divmS32 | divmU32 | divmS64 | divmU64 =>
    exact decode_row .divm rfl ((decodeDivm_eq_ok rfl).2 ⟨_, _, _, _, _, hwf, _, rfl, rfl⟩)
  | divrS32 | divrU32 | divrS64 | divrU64 =>
    exact decode_row .divr rfl ((decodeDivr_eq_ok rfl).2 ⟨_, _, _, _, _, rfl, rfl⟩)
  | divsrS32 | divsrU32 | divsrS64 | divsrU64 =>
    exact decode_row .divsr rfl ((decodeDivsr_eq_ok rfl).2 ⟨_, _, _, _, _, _, rfl, rfl⟩)
  | vdivl rnd rq rx ry rr rw rnx rny =>
    refine (decode_wordV _ rfl).trans ?_
    cases rnd <;> cases rr <;> rfl

/-! ### Every word that decodes is the word of its instruction -/

/-- `w` is the word of the well-formed instruction `i`. -/
def Instr.HasWord (i : Instr) (w : InstrWord) : Prop := i.wellFormed = true ∧ encode i = w

/-- An instruction that a row of Format A answers has the word of the fields. -/
theorem RowA.hasWord {f : FieldsA} {d : FieldsA → Except Illegal Instr} {i : Instr} (hr : RowA f.opc d)
    (hz : f.zero = 0#4) (h : d f = .ok i) : i.HasWord (wordA f) := by
  generalize ho : f.opc = opc at hr
  cases hr with
  | add | sub | shl =>
    obtain ⟨t, l, rd, ra, rb, hf, rfl⟩ := (decodeTwo_eq_ok hz).1 h
    rw [hf, ho, ← encA_eq_wordA]
    cases t <;> exact ⟨rfl, rfl⟩
  | shr | shrr =>
    obtain ⟨t, rd, ra, rb, hf, rfl⟩ := (decodeTwoU_eq_ok hz).1 h
    rw [hf, ho, ← encA_eq_wordA]
    cases t <;> exact ⟨rfl, rfl⟩
  | neg =>
    obtain ⟨b, l, rd, ra, hf, rfl⟩ := (decodeNeg_eq_ok hz).1 h
    rw [hf, ho, ← encA_eq_wordA]
    cases b <;> exact ⟨rfl, rfl⟩
  | mulw =>
    obtain ⟨b, rd, ra, rb, hf, rfl⟩ := (decodeMulw_eq_ok hz).1 h
    rw [hf, ho, ← encA_eq_wordA]
    cases b <;> exact ⟨rfl, rfl⟩
  | ms | msr =>
    obtain ⟨t, l, rd, ra, rb, rc, hf, rfl⟩ := (decodeThree_eq_ok hz).1 h
    rw [hf, ho, ← encA_eq_wordA]
    cases t <;> exact ⟨rfl, rfl⟩
  | divm =>
    obtain ⟨t, rd, re, ra, rb, hre, c, hf, rfl⟩ := (decodeDivm_eq_ok hz).1 h
    rw [hf, ho, ← encDivm_eq_wordA]
    cases t <;> exact ⟨hre, rfl⟩
  | divr =>
    obtain ⟨t, c, rd, ra, rb, hf, rfl⟩ := (decodeDivr_eq_ok hz).1 h
    rw [hf, ho, ← encA_eq_wordA]
    cases t <;> exact ⟨rfl, rfl⟩
  | divsr =>
    obtain ⟨t, c, rd, ra, rb, rc, hf, rfl⟩ := (decodeDivsr_eq_ok hz).1 h
    rw [hf, ho, ← encA_eq_wordA]
    cases t <;> exact ⟨rfl, rfl⟩

/-- Every answer is an instruction of the word `w`. -/
def AnswersFor (w : InstrWord) (r : Except Illegal Instr) : Prop := ∀ i, r = .ok i → i.HasWord w

namespace AnswersFor

theorem ok {w : InstrWord} {i : Instr} (hwf : i.wellFormed = true) (h : encode i = w) : AnswersFor w (.ok i) := by
  rintro _ ⟨⟩
  exact ⟨hwf, h⟩

theorem error (w : InstrWord) (e : Illegal) : AnswersFor w (.error e) := by
  rintro _ ⟨⟩

/-- What a part answered may be used of the rest. -/
theorem bind {α : Type} {w : InstrWord} {x : Except Illegal α} {g : α → Except Illegal Instr}
    (h : ∀ a, x = .ok a → AnswersFor w (g a)) : AnswersFor w (x >>= g) := by
  intro i hi
  obtain ⟨a, ha, hg⟩ := bind_eq_ok.1 hi
  exact h a ha i hg

/-- A test, or a row of the opcode map. -/
theorem ite {w : InstrWord} {c : Prop} [Decidable c] {x y : Except Illegal Instr} (hx : c → AnswersFor w x)
    (hy : ¬c → AnswersFor w y) : AnswersFor w (if c then x else y) := by
  split
  · next h => exact hx h
  · next h => exact hy h

end AnswersFor

/-- Fields of Format P whose must-be-zero bits are 0 are those that `encP` writes. -/
theorem encP_fields {f : FieldsP} (hlo : f.zeroLo = 0#12) (hhi : f.zeroHi = 0#5) :
    encP f.opc f.act f.rd f.ra f.code f.sel = wordP f := by
  cases f
  simp_all [encP]

/-- Format P: the tested fields are the ones that `encode` fills with 0. -/
theorem answersFor_decodeP (f : FieldsP) : AnswersFor (wordP f) (decodeP f) := by
  refine .bind fun _ hz => ?_
  obtain ⟨hlo, hhi⟩ : f.zeroLo = 0#12 ∧ f.zeroHi = 0#5 := by simpa using hz
  rw [← encP_fields hlo hhi]
  refine .ite (fun ho => .bind fun _ hc => .ok rfl ?pset) fun _ =>
    .ite (fun ho => .bind fun _ hc => .ok rfl ?ppush) fun _ =>
    .ite (fun ho => .bind fun _ hc => .ok rfl ?ppop) fun _ =>
    .ite (fun ho => .bind fun _ hc => .ok rfl ?sdec) fun _ =>
    .ite (fun ho => .bind fun _ hc => .bind fun e he => .ok rfl ?report) fun _ =>
    .ite (fun ho => .bind fun _ hc => .bind fun _ hact => .ok rfl ?tmset) fun _ =>
    .ite (fun ho => .bind fun _ hc => .ok rfl ?tmget) fun _ => .error _ _
  case report =>
    obtain ⟨hsel, hcode⟩ := ecfOf_eq_ok.1 he
    simp_all [encode]
  case tmset =>
    have hact' : f.act = 0#4 ∨ f.act = 1#4 := by simpa using hact
    rcases hact' with h | h <;> simp_all [encode]
  all_goals simp_all [encode]

/-- Format V: a remainder register is named exactly with `wr` = 1. -/
theorem answersFor_decodeV {f : FieldsV} (ho : f.opc = 0x50#8) : AnswersFor (wordV f) (decodeV f) := by
  refine .bind fun _ hz => ?_
  have hz' : f.zeroLo = 0#2 ∧ f.zeroHi = 0#24 := by simpa using hz
  have hrnd : bit (f.rnd == 1#1) = f.rnd := by rcases bit_cases f.rnd with h | h <;> simp [h, bit]
  refine .ite (fun hwr => .bind fun _ hrr => .ok rfl ?_) fun hwr => .ok rfl ?_
  · cases f
    simp_all [encode, wrBit, remainderBits]
  · have hwr1 := (bit_cases f.wr).resolve_left hwr
    cases f
    simp_all [encode, wrBit, remainderBits]

/-- Format A: by the rows of the opcode map. -/
theorem answersFor_decodeA (f : FieldsA) : AnswersFor (wordA f) (decodeA f) := by
  intro i h
  obtain ⟨hz, d, hr, hd⟩ := decodeA_eq_ok.1 h
  exact hr.hasWord hz hd

/-- A word that decodes is the word of its instruction, which is well formed. -/
theorem hasWord_of_decode {w : InstrWord} {i : Instr} (h : decode w = .ok i) : i.HasWord w := by
  unfold decode at h
  split_ifs at h with hp hv
  · simpa using answersFor_decodeP (fieldsP w) i h
  · simpa using answersFor_decodeV hv i h
  · simpa using answersFor_decodeA (fieldsA w) i h

/-- The words that decode are the words of the well-formed instructions. -/
theorem decode_eq_ok_iff {w : InstrWord} {i : Instr} : decode w = .ok i ↔ i.HasWord w := by
  refine ⟨hasWord_of_decode, ?_⟩
  rintro ⟨hwf, rfl⟩
  exact decode_encode hwf

/-! ### Illegal words (R80) -/

/-- A slice is 0 exactly when the neighbouring slices that it joins are. -/
theorem slice_eq_zero_iff {w : InstrWord} (a la b lb : Nat) (h : a = b + lb) :
    w.extractLsb' b (la + lb) = 0#(la + lb) ↔ w.extractLsb' b lb = 0#lb ∧ w.extractLsb' a la = 0#la := by
  rw [← slices_join a la b lb h, ← BitVec.toNat_inj, ← BitVec.toNat_inj, ← BitVec.toNat_inj]
  simp only [BitVec.toNat_append, BitVec.toNat_ofNat, Nat.zero_mod, Nat.or_eq_zero_iff, Nat.shiftLeft_eq_zero_iff,
    and_comm]

/-- `code` and `sel` are the bits 58..32. -/
theorem codeField_eq_zero_iff {w : InstrWord} :
    w.extractLsb' 32 27 = 0#27 ↔ w.extractLsb' 32 24 = 0#24 ∧ w.extractLsb' 56 3 = 0#3 :=
  slice_eq_zero_iff 56 3 32 24 rfl

/-- R80 items 4 and 5 of Format A: `chk` is no reserved one, `sel` is in range, and the error-code field is 0 but at
level E. -/
def FieldsA.LevelLegal (f : FieldsA) : Prop :=
  f.chk ≠ 3#2 ∧ f.sel.toNat ≤ 4 ∧ (f.chk ≠ 1#2 → f.code = 0#24 ∧ f.sel = 0#3)

theorem exists_selBits_iff {sel : BitVec 3} : (∃ o, sel = selBits o) ↔ sel.toNat ≤ 4 := by
  constructor
  · rintro ⟨_ | _ | _, rfl⟩ <;> decide
  · have hsel : ∀ s : BitVec 3, s.toNat ≤ 4 →
      s ∈ [none, some .terminate, some .count, some .setFlag, some .callback].map selBits := by decide
    intro h
    obtain ⟨o, -, ho⟩ := List.mem_map.1 (hsel sel h)
    exact ⟨o, ho.symm⟩

theorem exists_ecfOf_eq_ok {sel : BitVec 3} {code : Code} : (∃ e, ecfOf sel code = .ok e) ↔ sel.toNat ≤ 4 := by
  simp [ecfOf, exists_bind_eq_ok, exists_selBits_iff]

theorem chk_cases (c : BitVec 2) : c = 0#2 ∨ c = 1#2 ∨ c = 2#2 ∨ c = 3#2 := by
  revert c
  decide

theorem exists_checkedOf_eq_ok {f : FieldsA} : (∃ c, checkedOf f = .ok c) ↔ f.LevelLegal ∧ f.chk ≠ 0#2 := by
  unfold checkedOf FieldsA.LevelLegal
  rcases chk_cases f.chk with h | h | h | h <;>
    simp +contextual [h, exists_bind_eq_ok, exists_ecfOf_eq_ok, requireNoCode_eq_ok]

theorem exists_levelOf_eq_ok {f : FieldsA} : (∃ l, levelOf f = .ok l) ↔ f.LevelLegal := by
  unfold levelOf
  split
  · next h => simp +contextual [FieldsA.LevelLegal, h, exists_bind_eq_ok, requireNoCode_eq_ok]
  · next h => simp [h, exists_bind_eq_ok, exists_checkedOf_eq_ok]

theorem requireUnchecked_eq_ok_iff_levelLegal {f : FieldsA} {u : Unit} :
    requireUnchecked f = .ok u ↔ f.LevelLegal ∧ f.chk = 0#2 := by
  unfold requireUnchecked FieldsA.LevelLegal
  rcases chk_cases f.chk with h | h | h | h <;> simp +contextual [h, bind_eq_ok, requireNoCode_eq_ok]

theorem exists_remainderOf_eq_ok {f : FieldsA} :
    (∃ r, remainderOf f = .ok r) ↔ (f.wr = 0#1 → f.re = 0#4) ∧ (f.wr = 1#1 → f.re ≠ f.rd) := by
  unfold remainderOf
  rcases bit_cases f.wr with h | h <;> simp [h, exists_bind_eq_ok]

/-- The items of R80 in Format A, on the fields of the word. -/
theorem not_illegalA_iff {w : InstrWord} {f : FieldsA} (hf : fieldsA w = f) :
    ¬illegalA w ↔ f.zero = 0#4 ∧ f.LevelLegal
      ∧ (f.opc = 0x21#8 ∨ f.opc = 0x22#8 ∨ f.opc = 0x30#8 → f.chk = 0#2)
      ∧ (f.opc = 0x40#8 ∨ f.opc = 0x41#8 ∨ f.opc = 0x42#8 → f.chk ≠ 0#2)
      ∧ (f.opc = 0x12#8 → f.u = 0#1 ∧ f.rb = 0#4)
      ∧ (f.opc = 0x30#8 → f.d = 0#1)
      ∧ (f.opc ≠ 0x31#8 → f.opc ≠ 0x32#8 → f.opc ≠ 0x42#8 → f.rc = 0#4)
      ∧ (f.opc ≠ 0x40#8 → f.HasRemainder none)
      ∧ (f.opc = 0x40#8 → f.wr = 0#1 → f.re = 0#4)
      ∧ (f.opc = 0x40#8 → f.wr = 1#1 → f.re ≠ f.rd) := by
  subst hf
  simp only [illegalA, FieldsA.LevelLegal, FieldsA.HasRemainder, fieldsA, opcOf, remainderBits, wrBit, ne_eq,
    BitVec.ofNat_eq_ofNat, codeField_eq_zero_iff, not_or, not_and, Classical.not_not, Classical.not_imp,
    not_lt, and_assoc]

/-! What each shape of Format A asks of the fields. -/

theorem exists_decodeTwo_eq_ok {mk : Ty → Level → Reg → Reg → Reg → Instr} {f : FieldsA} :
    (∃ i, decodeTwo mk f = .ok i) ↔ f.rc = 0#4 ∧ f.HasRemainder none ∧ f.LevelLegal := by
  simp [decodeTwo, exists_bind_eq_ok, requireTwoSources_eq_ok, exists_levelOf_eq_ok, and_assoc]

theorem exists_decodeTwoU_eq_ok {mk : Ty → Reg → Reg → Reg → Instr} {f : FieldsA} :
    (∃ i, decodeTwoU mk f = .ok i) ↔ f.rc = 0#4 ∧ f.HasRemainder none ∧ f.LevelLegal ∧ f.chk = 0#2 := by
  simp [decodeTwoU, exists_bind_eq_ok, requireTwoSources_eq_ok, requireUnchecked_eq_ok_iff_levelLegal, and_assoc]

theorem exists_decodeNeg_eq_ok {f : FieldsA} :
    (∃ i, decodeNeg f = .ok i)
      ↔ f.u = 0#1 ∧ f.rb = 0#4 ∧ f.rc = 0#4 ∧ f.HasRemainder none ∧ f.LevelLegal := by
  simp [decodeNeg, exists_bind_eq_ok, exists_levelOf_eq_ok, FieldsA.HasRemainder, remainderBits, wrBit, and_assoc]

theorem exists_decodeMulw_eq_ok {f : FieldsA} :
    (∃ i, decodeMulw f = .ok i)
      ↔ f.d = 0#1 ∧ f.rc = 0#4 ∧ f.HasRemainder none ∧ f.LevelLegal ∧ f.chk = 0#2 := by
  simp [decodeMulw, exists_bind_eq_ok, requireTwoSources_eq_ok, requireUnchecked_eq_ok_iff_levelLegal, and_assoc]

theorem exists_decodeThree_eq_ok {mk : Ty → Level → Reg → Reg → Reg → Reg → Instr} {f : FieldsA} :
    (∃ i, decodeThree mk f = .ok i) ↔ f.HasRemainder none ∧ f.LevelLegal := by
  simp [decodeThree, exists_bind_eq_ok, requireNoRemainder_eq_ok, exists_levelOf_eq_ok]

theorem exists_decodeDivm_eq_ok {f : FieldsA} :
    (∃ i, decodeDivm f = .ok i)
      ↔ f.rc = 0#4 ∧ ((f.wr = 0#1 → f.re = 0#4) ∧ (f.wr = 1#1 → f.re ≠ f.rd)) ∧ f.LevelLegal ∧ f.chk ≠ 0#2 := by
  simp [decodeDivm, exists_bind_eq_ok, exists_remainderOf_eq_ok, exists_checkedOf_eq_ok]

theorem exists_decodeDivr_eq_ok {f : FieldsA} :
    (∃ i, decodeDivr f = .ok i) ↔ f.rc = 0#4 ∧ f.HasRemainder none ∧ f.LevelLegal ∧ f.chk ≠ 0#2 := by
  simp [decodeDivr, exists_bind_eq_ok, requireTwoSources_eq_ok, exists_checkedOf_eq_ok, and_assoc]

theorem exists_decodeDivsr_eq_ok {f : FieldsA} :
    (∃ i, decodeDivsr f = .ok i) ↔ f.HasRemainder none ∧ f.LevelLegal ∧ f.chk ≠ 0#2 := by
  simp [decodeDivsr, exists_bind_eq_ok, requireNoRemainder_eq_ok, exists_checkedOf_eq_ok]

/-- A row of Format A answers exactly the words without an item of R80. -/
theorem RowA.exists_eq_ok_iff {w : InstrWord} {d : FieldsA → Except Illegal Instr} (hr : RowA (opcOf w) d) :
    (∃ i, decodeA (fieldsA w) = .ok i) ↔ ¬illegalA w := by
  generalize hf : fieldsA w = f
  have hopc : opcOf w = f.opc := hf ▸ rfl
  rw [not_illegalA_iff hf, decodeA_of_row (hopc ▸ hr), exists_bind_eq_ok]
  rw [hopc] at hr
  generalize f.opc = opc at hr
  cases hr with
  | add | sub | shl => simp [exists_decodeTwo_eq_ok]; tauto
  | shr | shrr => simp [exists_decodeTwoU_eq_ok]; tauto
  | neg => simp [exists_decodeNeg_eq_ok]; tauto
  | mulw => simp [exists_decodeMulw_eq_ok]; tauto
  | ms | msr => simp [exists_decodeThree_eq_ok]; tauto
  | divm => simp [exists_decodeDivm_eq_ok]; tauto
  | divr => simp [exists_decodeDivr_eq_ok]; tauto
  | divsr => simp [exists_decodeDivsr_eq_ok]; tauto

theorem RowA.exists_of_mem {opc : Opc} (h : opc ∈ opcodesA) : ∃ d, RowA opc d := by
  simp only [opcodesA, List.mem_cons, List.not_mem_nil, or_false] at h
  rcases h with rfl | rfl | rfl | rfl | rfl | rfl | rfl | rfl | rfl | rfl | rfl | rfl
  exacts [⟨_, .add⟩, ⟨_, .sub⟩, ⟨_, .neg⟩, ⟨_, .shl⟩, ⟨_, .shr⟩, ⟨_, .shrr⟩, ⟨_, .mulw⟩, ⟨_, .ms⟩, ⟨_, .msr⟩,
    ⟨_, .divm⟩, ⟨_, .divr⟩, ⟨_, .divsr⟩]

/-- Format A answers exactly the words of its opcodes without an item of R80. -/
theorem exists_decodeA_eq_ok {w : InstrWord} :
    (∃ i, decodeA (fieldsA w) = .ok i) ↔ opcOf w ∈ opcodesA ∧ ¬illegalA w := by
  constructor
  · rintro ⟨i, h⟩
    obtain ⟨hz, d, hr, hd⟩ := decodeA_eq_ok.1 h
    exact ⟨hr.mem_opcodesA, (RowA.exists_eq_ok_iff hr).1 ⟨i, h⟩⟩
  · rintro ⟨hm, hl⟩
    obtain ⟨d, hr⟩ := RowA.exists_of_mem hm
    exact hr.exists_eq_ok_iff.2 hl

/-- The items of R80 in Format P, on the fields of the word. -/
theorem not_illegalP_iff {w : InstrWord} {f : FieldsP} (hf : fieldsP w = f) :
    ¬illegalP w ↔ f.zeroLo = 0#12 ∧ f.zeroHi = 0#5
      ∧ (f.opc = 0x01#8 ∨ f.opc = 0x02#8 → f.rd = 0#4 ∧ f.code = 0#24 ∧ f.sel = 0#3)
      ∧ (f.opc = 0x03#8 → f.act = 0#4 ∧ f.rd = 0#4 ∧ f.ra = 0#4 ∧ f.code = 0#24 ∧ f.sel = 0#3)
      ∧ (f.opc = 0x04#8 → f.act = 0#4 ∧ f.rd = 0#4 ∧ f.ra = 0#4 ∧ f.sel = 0#3)
      ∧ (f.opc = 0x05#8 → f.act = 0#4 ∧ f.rd = 0#4 ∧ f.ra = 0#4 ∧ f.sel.toNat ≤ 4)
      ∧ (f.opc = 0x06#8 → f.rd = 0#4 ∧ f.ra = 0#4 ∧ f.code = 0#24 ∧ f.sel = 0#3 ∧ f.act.toNat ≤ 1)
      ∧ (f.opc = 0x07#8 → f.act = 0#4 ∧ f.ra = 0#4 ∧ f.code = 0#24 ∧ f.sel = 0#3) := by
  subst hf
  have hregs : w.extractLsb' 12 8 = 0#8 ↔ w.extractLsb' 12 4 = 0#4 ∧ w.extractLsb' 16 4 = 0#4 :=
    slice_eq_zero_iff 16 4 12 4 rfl
  have hactRegs : w.extractLsb' 8 12 = 0#12 ↔ w.extractLsb' 8 4 = 0#4 ∧ w.extractLsb' 12 8 = 0#8 :=
    slice_eq_zero_iff 12 8 8 4 rfl
  simp only [illegalP, fieldsP, opcOf, ne_eq, BitVec.ofNat_eq_ofNat, codeField_eq_zero_iff, hactRegs, hregs, not_or,
    not_and, Classical.not_not, Classical.not_imp, not_lt, and_assoc]

/-- Format P answers exactly the words of its opcodes without an item of R80. -/
theorem exists_decodeP_eq_ok {w : InstrWord} (h : opcOf w ∈ opcodesP) :
    (∃ i, decodeP (fieldsP w) = .ok i) ↔ ¬illegalP w := by
  generalize hf : fieldsP w = f
  have hopc : opcOf w = f.opc := hf ▸ rfl
  have hact : f.act = 0#4 ∨ f.act = 1#4 ↔ f.act.toNat ≤ 1 := by
    generalize f.act = act
    revert act
    decide
  simp only [hopc, opcodesP, List.mem_cons, List.not_mem_nil, or_false] at h
  rw [not_illegalP_iff hf, decodeP, exists_bind_eq_ok]
  rcases h with ho | ho | ho | ho | ho | ho | ho <;>
    simp [ho, exists_bind_eq_ok, exists_ecfOf_eq_ok, hact, and_assoc]

/-- Format V answers exactly the words without an item of R80. -/
theorem exists_decodeV_eq_ok {w : InstrWord} : (∃ i, decodeV (fieldsV w) = .ok i) ↔ ¬illegalV w := by
  rw [decodeV, exists_bind_eq_ok]
  rcases bit_cases (w.extractLsb' 9 1) with h | h <;> simp [illegalV, fieldsV, h, exists_bind_eq_ok, and_assoc]

theorem mem_opcodesP_iff {opc : Opc} : opc ∈ opcodesP ↔ 1 ≤ opc.toNat ∧ opc.toNat ≤ 7 := by
  revert opc
  decide

/-- A word is no instruction exactly when an item of R80 holds of its bits. -/
theorem exists_decode_eq_ok {w : InstrWord} : (∃ i, decode w = .ok i) ↔ ¬illegalInstruction w := by
  simp only [decode, illegalInstruction, ← mem_opcodesP_iff]
  split_ifs with hp hv
  · have hA : opcOf w ∉ opcodesA := fun hA => (notP_notV_of_mem_opcodesA hA).1 (mem_opcodesP_iff.1 hp)
    have hv : opcOf w ≠ 0x50#8 := fun hv => absurd (hv ▸ hp) (by decide)
    rw [exists_decodeP_eq_ok hp]
    tauto
  · have hA : opcOf w ∉ opcodesA := fun hA => (notP_notV_of_mem_opcodesA hA).2 hv
    rw [exists_decodeV_eq_ok]
    tauto
  · rw [exists_decodeA_eq_ok]
    tauto

end Sys2Proof

namespace Sys2Proof.Machine

open Sys2Proof.Safety

/-- A condition that test mode does not cover ends the instruction in HALTED, whatever was to follow. -/
theorem fatal_andThen_of_not_suppressible {c : Cause} (h : c.suppressible = false) (ec : Code) (opc : Opc) (s : State)
    (k : State → Result) : (fatal c ec opc s).andThen k = .next (haltedBy s c ec opc) := by
  rw [fatal_of_not_suppressible h, andThen_stopped, halt_eq_haltedBy]

/-- In RUN an Issue of an illegal word halts the unit, whatever TM is. -/
theorem issue_illegal {s : State} {w : InstrWord} (hr : s.runState = .run) (hw : illegalInstruction w) :
    transact (.issue w) s = .next (haltedBy s .illegal 0 (opcOf w)) := by
  cases hd : decode w with
  | ok i => exact absurd hw (exists_decode_eq_ok.1 ⟨i, hd⟩)
  | error e =>
    simp only [transact, issue, hr, issueInRun, hd, illegalWord]
    exact fatal_andThen_of_not_suppressible rfl 0 _ s _

/-- The numbers 4 to 15 name no action. -/
theorem actionOf_eq_none {act : BitVec 4} (h : 4 ≤ act.toNat) : actionOf act = none := by
  revert act
  decide

theorem exec_pset_badAction {act : BitVec 4} (h : 4 ≤ act.toNat) (ra : Reg) (s : State) :
    exec (.pset act ra) s = .next (haltedBy s .badAction 0 0x01) := by
  simp only [exec, execPset, actionOf_eq_none h]
  exact fatal_andThen_of_not_suppressible rfl 0 _ s _

theorem exec_ppush_badAction {act : BitVec 4} (h : 4 ≤ act.toNat) (ra : Reg) {s : State} (hp : s.psp.val < 4) :
    exec (.ppush act ra) s = .next (haltedBy s .badAction 0 0x02) := by
  have hroom : s.psp.val + 1 < Config.psDepth := Nat.succ_lt_succ hp
  simp only [exec, execPpush, dif_pos hroom, actionOf_eq_none h]
  exact fatal_andThen_of_not_suppressible rfl 0 _ s _

end Sys2Proof.Machine

namespace Sys2Proof.Proofs

open Sys2Proof.Machine Sys2Proof.Safety

/-- Settles O3: by the row of the opcode map that the instruction's opcode selects. -/
theorem decodeEncode : Obligations.DecodeEncode := fun _ => decode_encode

/-- Settles O4: by the format of the word, each format's answers being instructions of that word. -/
theorem encodeDecode : Obligations.EncodeDecode := fun _ _ => hasWord_of_decode

/-- Settles O5: format by format, R80's items are what the decoder rejects; ILLEGAL is not suppressed by test mode. -/
theorem illegalWordsHalt : Obligations.IllegalWordsHalt :=
  ⟨fun _ => exists_decode_eq_ok, fun _ _ _ hr hi hw => (step_cons hi).trans (issue_illegal hr hw)⟩

/-- Settles O2: each word is the word of its instruction. -/
theorem decodesWorkedWords : Obligations.DecodesWorkedWords := by
  refine ⟨?_, ?_, ?_, ?_, ?_, ?_, ?_, ?_⟩ <;> exact decode_eq_ok_iff.2 ⟨rfl, rfl⟩

/-- Settles O6: no action has such a number, and the decoder does not read the field. -/
theorem badActionIsDecoded : Obligations.BadActionIsDecoded := fun _ ra h =>
  ⟨decode_encode rfl, decode_encode rfl, fun s => ⟨exec_pset_badAction h ra s, exec_ppush_badAction h ra⟩⟩

end Sys2Proof.Proofs
end

section
/-! PROOFS of the statements on policy: the policy stack, the report dispatch with its four actions, and the completion
after a report (40_policy.md). -/

namespace Sys2Proof.Machine

open Sys2Proof.Safety

/-! ### The policy stack (R24, R101, R102) -/

/-- The field of an action kind names that kind. -/
@[simp] theorem actionOf_actField (a : Action) : actionOf (actField a) = some a := by
  cases a <;> rfl

/-- The records after the current one was set. -/
theorem record_setCurrent (s : State) (r : PolicyRecord) (k : Fin Config.psDepth) :
    (s.setCurrent r).ps[k] = if k = s.psp then r else s.ps[k] := by
  simp [Vector.getElem_set, Fin.ext_iff, eq_comm]

/-- A push changes the record above the current one only: the duplicate of the current record is overwritten (R102). -/
theorem pushRecord_ps (s : State) (r : PolicyRecord) (h : s.psp.val + 1 < Config.psDepth) :
    (pushRecord s r h).ps = s.ps.set (s.psp.val + 1) r h := by
  simp [pushRecord]

/-- The records after a push. -/
theorem record_pushRecord (s : State) (r : PolicyRecord) (h : s.psp.val + 1 < Config.psDepth) (k : Fin Config.psDepth) :
    (pushRecord s r h).ps[k] = if k.val = s.psp.val + 1 then r else s.ps[k] := by
  simp [pushRecord_ps, Vector.getElem_set, eq_comm]

/-- PPUSH of a legal action below full depth pushes its record. -/
theorem exec_ppush_actField {s : State} (h : s.psp.val + 1 < Config.psDepth) (a : Action) (ra : Reg) :
    exec (.ppush (actField a) ra) s = .next (pushRecord s { act := a, res := s.handle ra } h).stepCC := by
  simp [exec, execPpush, h]

/-- PPUSH at full depth is PSTACKOVF, whatever its action. -/
theorem exec_ppush_full {s : State} (h : ¬s.psp.val + 1 < Config.psDepth) (act : BitVec 4) (ra : Reg) :
    exec (.ppush act ra) s = .next (haltedBy s .pstackOvf 0 0x02) := by
  simp only [exec, execPpush, dif_neg h]
  exact fatal_andThen_of_not_suppressible rfl 0 _ s _

/-- A PPUSH that completes in RUN has pushed a record. -/
theorem exec_ppush_running {act : BitVec 4} {ra : Reg} {s s' : State} (h : exec (.ppush act ra) s = .next s')
    (hr : s'.runState = .run) : ∃ r hlt, s' = (pushRecord s r hlt).stepCC := by
  rcases execPpush_next h with hpushed | rfl | rfl
  · exact hpushed
  · cases hr
  · cases hr

/-! ### What an instruction leaves of the policy state (R114, R115) -/

/-- An instruction other than PSET and PPUSH leaves every record alone, however it ends. -/
theorem exec_ps {i : Instr} {s s' : State} (h : exec i s = .next s') (hi : i.opcode ∉ ([0x01, 0x02] : List Opc)) :
    s'.ps = s.ps := by
  cases exec_outcome h with
  | completed _ hc => exact hc.ps hi
  | halted => rfl
  | suspended => rfl

/-- No instruction writes a record below the current one: PSET writes `PS[PSP]` and PPUSH `PS[PSP + 1]`. -/
theorem exec_record_below {i : Instr} {s s' : State} (h : exec i s = .next s') {k : Fin Config.psDepth}
    (hk : k.val < s.psp.val) : s'.ps[k] = s.ps[k] := by
  cases i with
  | pset act ra =>
    rcases execPset_next h with ⟨r, rfl⟩ | rfl
    · exact (record_setCurrent s r k).trans (if_neg (Fin.ne_of_lt hk))
    · rfl
  | ppush act ra =>
    rcases execPpush_next h with ⟨r, hlt, rfl⟩ | rfl | rfl
    · exact (record_pushRecord s r hlt k).trans (if_neg (Nat.ne_of_lt (Nat.lt_succ_of_lt hk)))
    · rfl
    · rfl
  | _ => rw [exec_ps h (by simp [Instr.opcode])]

/-- Instructions that stay above `p` leave the records up to `p` alone. -/
theorem above_record {p : Nat} {s s' : State} {is : List Instr} (h : Above p s is s') (hp : p < s.psp.val)
    {k : Fin Config.psDepth} (hk : k.val ≤ p) : s'.ps[k] = s.ps[k] := by
  induction h with
  | nil => rfl
  | cons i is s s1 s2 he _ hp1 _ ih => exact (ih hp1).trans (exec_record_below he (Nat.lt_of_le_of_lt hk hp))

/-! ### Completion (R109; 10_state.md R22, R36) -/

/-- A register after a list of writes: the last value the list gives it, or its own. -/
theorem State.reg_writeRegs (ws : List RegWrite) (s : State) (r : Reg) :
    (s.writeRegs ws).reg r = (lastWrite ws r).getD (s.reg r) := by
  induction ws generalizing s with
  | nil => rfl
  | cons w ws ih =>
    rw [State.writeRegs_cons, ih, State.reg_setReg, lastWrite]
    cases lastWrite ws r with
    | some v => rfl
    | none => by_cases h : w.1 = r <;> simp [h]

/-- Register writes change the registers only. -/
theorem State.writeRegs_eq (ws : List RegWrite) (s : State) :
    s.writeRegs ws = { s with regs := (s.writeRegs ws).regs } := by
  induction ws generalizing s with
  | nil => rfl
  | cons w ws ih => exact ih (s.setReg w.1 w.2)

/-- Completion changes the registers and CC only. -/
theorem State.complete_eq (ws : List RegWrite) (s : State) :
    s.complete ws = { s with regs := (s.complete ws).regs, cc := s.cc + 1 } :=
  congrArg State.stepCC (s.writeRegs_eq ws)

/-! ### The action that a report resolves to (R100) -/

/-- The machine's resolution of an override, as claims state it. -/
theorem resolveAction_eq_some_iff {s : State} {o : Option Action} {a : Action} :
    resolveAction o s.current = some a ↔ resolvesTo s o a := by
  cases o with
  | none => simp [resolveAction, resolvesTo]
  | some b =>
    simp only [resolveAction, resolvesTo, Option.ite_none_right_eq_some, Option.some.injEq, reduceCtorEq, false_and,
      false_or, eq_comm (b := s.current.act)]
    constructor
    · rintro ⟨h, rfl⟩
      exact ⟨rfl, h⟩
    · rintro ⟨rfl, h⟩
      exact ⟨h, rfl⟩

/-- An override resolves to nothing exactly when it needs a resource that the current record does not give. -/
theorem resolveAction_eq_none_iff {o : Option Action} {cur : PolicyRecord} :
    resolveAction o cur = none ↔ ∃ a, o = some a ∧ a ≠ .terminate ∧ a ≠ cur.act := by
  cases o <;> simp [resolveAction]

/-! ### A report and the completion after it, action by action (R109 to R113) -/

section Report

variable {s : State} {o : Option Action} (code : Code) (opc : Opc) (ws : List RegWrite)

/-- Terminate: the message and completion in test mode, else HALTED (R112). -/
theorem reportThenComplete_terminate (h : resolvesTo s o .terminate) :
    reportThenComplete code o opc ws s
      = .next (if s.tm then (s.log (.msg .terminate s.cc opc code false)).complete ws
          else haltedBy s .terminate code opc) := by
  simp only [reportThenComplete, report, resolveAction_eq_some_iff.2 h, terminateAction]
  split
  · rfl
  · exact fatal_andThen_of_not_suppressible rfl code opc s _

/-- A store that an action makes where its address lies in M, else MEMFAULT (60_exceptions.md R236). -/
theorem storeOrFault_andThen (a : Nat) (v : Word) :
    (if s.validAddress a then .returned (s.writeWord a v) else fatal .memFault code opc s : Ended).andThen
        (fun s' => .next (s'.complete ws))
      = .next (if a < s.memWords then (s.writeWord a v).complete ws else haltedBy s .memFault code opc) := by
  by_cases h : a < s.memWords
  · rw [if_pos (validAddress_iff.2 h), if_pos h, andThen_returned]
  · rw [if_neg (mt validAddress_iff.1 h), if_neg h, fatal_andThen_of_not_suppressible rfl]

/-- Count: the counter's word plus one and completion, or MEMFAULT (R110). -/
theorem reportThenComplete_count (h : resolvesTo s o .count) :
    reportThenComplete code o opc ws s
      = .next (if s.current.res.toNat + code.toNat < s.memWords then
            (s.writeWord (s.current.res.toNat + code.toNat)
              (s.readWord (s.current.res.toNat + code.toNat) + 1)).complete ws
          else haltedBy s .memFault code opc) := by
  simp only [reportThenComplete, report, resolveAction_eq_some_iff.2 h]
  exact storeOrFault_andThen code opc ws _ _

/-- SetFlag: refused for a code without a bit, else the bit set and completion, or MEMFAULT (R111). -/
theorem reportThenComplete_setFlag (h : resolvesTo s o .setFlag) :
    reportThenComplete code o opc ws s
      = if 32 ≤ code.toNat then .refused .setFlagCode
        else .next (if s.current.res.toNat < s.memWords then
            (s.writeWord s.current.res.toNat
              (s.readWord s.current.res.toNat ||| (1#32 <<< code.toNat))).complete ws
          else haltedBy s .memFault code opc) := by
  simp only [reportThenComplete, report, resolveAction_eq_some_iff.2 h, setFlagAction]
  split
  · rfl
  · exact storeOrFault_andThen code opc ws _ _

/-- Callback: the event, PEND and CBWAIT (R113). -/
theorem reportThenComplete_callback (h : resolvesTo s o .callback) :
    reportThenComplete code o opc ws s
      = .next { s with
          ev := s.ev ++ [.callback s.current.res s.cc opc code]
          pend := some { opc := opc, code := code, writes := ws }
          runState := .cbwait } := by
  simp only [reportThenComplete, report, resolveAction_eq_some_iff.2 h]
  rfl

/-- An override that resolves to nothing is refused for its kind (R100, U5). -/
theorem reportThenComplete_unresolved (h : resolveAction o s.current = none) :
    reportThenComplete code o opc ws s = .refused .overrideKind := by
  simp only [reportThenComplete, report, h]
  rfl

/-- A report that resolves is not refused for its kind. -/
theorem reportThenComplete_ne_overrideKind {a : Action} (h : resolvesTo s o a) :
    reportThenComplete code o opc ws s ≠ .refused .overrideKind := by
  cases a with
  | terminate => simp [reportThenComplete_terminate code opc ws h]
  | count => simp [reportThenComplete_count code opc ws h]
  | setFlag =>
    rw [reportThenComplete_setFlag code opc ws h]
    split <;> simp
  | callback => simp [reportThenComplete_callback code opc ws h]

end Report

/-- The bits of a word in which one bit was set. -/
theorem getLsbD_or_bit (w : Word) {n : Nat} (hn : n < 32) (k : Nat) :
    (w ||| (1#32 <<< n)).getLsbD k = (w.getLsbD k || decide (k = n)) := by
  have hbit : (1#32 <<< n).getLsbD k = decide (k = n) := by
    rw [BitVec.getLsbD_shiftLeft, BitVec.getLsbD_one, Bool.eq_iff_iff]
    simp only [Bool.and_eq_true, Bool.not_eq_true', decide_eq_true_eq, decide_eq_false_iff_not]
    omega
  rw [BitVec.getLsbD_or, hbit]

/-! ### Return from a callback (60_exceptions.md R239) -/

/-- Completion looks at neither the run state nor PEND. -/
theorem complete_suspended (s : State) (p : Option Pending) (r : RunState) (ws : List RegWrite) :
    State.complete { s with pend := p, runState := r } ws = { s.complete ws with pend := p, runState := r } := by
  have hwrites : State.writeRegs { s with pend := p, runState := r } ws
      = { s.writeRegs ws with pend := p, runState := r } := by
    induction ws generalizing s with
    | nil => rfl
    | cons w ws ih => exact ih (s.setReg w.1 w.2)
  exact congrArg State.stepCC hwrites

/-- The resumed instruction leaves what it would have left without the suspension. -/
theorem resume_suspended {s : State} (hr : s.runState = .run) (hp : s.pend = none) (p : Pending) :
    State.resume { s with pend := some p, runState := .cbwait } p = s.complete p.writes := by
  have hrun : (s.complete p.writes).runState = .run := (s.complete_runState p.writes).trans hr
  have hpend : (s.complete p.writes).pend = none := (s.complete_pend p.writes).trans hp
  rw [State.resume, complete_suspended, ← hrun, ← hpend]

/-- The aborted instruction leaves the halt status only, and nothing pending. -/
theorem abort_suspended {s : State} (hp : s.pend = none) (p : Pending) :
    State.abort { s with pend := some p, runState := .cbwait } p
      = { s with hcause := .cbAbort, hcc := s.cc, hop := p.opc, hec := p.code, runState := .halted } := by
  rw [State.abort, ← hp]
  rfl

/-- In CBWAIT a reply is what it does to the pending instruction. -/
theorem transact_callbackReply {s : State} {p : Pending} (hw : s.runState = .cbwait) (hp : s.pend = some p)
    (r : CallbackAnswer) : transact (.callbackReply r) s = .next (replyTo r p s) := by
  simp [transact, callbackReplyTxn, hw, hp]

/-! ### Checked-deferred is checked-explicit with DEC and no override (R108) -/

/-- The explicit level that a deferred instruction has the effect of. -/
abbrev State.deferredAsExplicit (s : State) : Checked := .explicit { override := none, code := s.dec }

theorem finishChecked_deferred (ovf : Bool) (opc : Opc) (plain satv : List RegWrite) (s : State) :
    finishChecked .deferred ovf opc plain satv s = finishChecked s.deferredAsExplicit ovf opc plain satv s := rfl

theorem finish_deferred (ovf : Bool) (opc : Opc) (plain satv : List RegWrite) (s : State) :
    finish (.checked .deferred) ovf opc plain satv s
      = finish (.checked s.deferredAsExplicit) ovf opc plain satv s := rfl

theorem finishValue_deferred (t : Ty) (opc : Opc) (rd : Reg) (n : Int) (s : State) :
    finishValue t (.checked .deferred) opc rd n s = finishValue t (.checked s.deferredAsExplicit) opc rd n s := rfl

theorem checkedCode_deferred (s : State) : s.checkedCode .deferred = s.checkedCode s.deferredAsExplicit := rfl

theorem levelCode_deferred (s : State) :
    s.levelCode (.checked .deferred) = s.levelCode (.checked s.deferredAsExplicit) := rfl

/-! ### The instructions of a family are one meaning, typed -/

theorem exec_add (t : Ty) (l : Level) (rd ra rb : Reg) (s : State) :
    exec (.add t l rd ra rb) s = addTyped t l rd ra rb s := by
  cases t <;> rfl

theorem exec_sub (t : Ty) (l : Level) (rd ra rb : Reg) (s : State) :
    exec (.sub t l rd ra rb) s = subTyped t l rd ra rb s := by
  cases t <;> rfl

theorem exec_neg (wide : Bool) (l : Level) (rd ra : Reg) (s : State) :
    exec (.neg wide l rd ra) s = negTyped (if wide then .s64 else .s32) l rd ra s := by
  cases wide <;> rfl

theorem exec_shl (t : Ty) (l : Level) (rd ra rb : Reg) (s : State) :
    exec (.shl t l rd ra rb) s = shlTyped t l rd ra rb s := by
  cases t <;> rfl

theorem exec_ms (t : Ty) (l : Level) (rd ra rb rc : Reg) (s : State) :
    exec (.ms t l rd ra rb rc) s = msTyped t l rd ra rb rc s := by
  cases t <;> rfl

theorem exec_msr (t : Ty) (l : Level) (rd ra rb rc : Reg) (s : State) :
    exec (.msr t l rd ra rb rc) s = msrTyped t l rd ra rb rc s := by
  cases t <;> rfl

theorem exec_divm (t : Ty) (c : Checked) (rd : Reg) (re : Option Reg) (ra rb : Reg) (s : State) :
    exec (.divm t c rd re ra rb) s = divmTyped t c rd re ra rb s := by
  cases t <;> rfl

theorem exec_divr (t : Ty) (c : Checked) (rd ra rb : Reg) (s : State) :
    exec (.divr t c rd ra rb) s = divrTyped t c rd ra rb s := by
  cases t <;> rfl

theorem exec_divsr (t : Ty) (c : Checked) (rd ra rb rc : Reg) (s : State) :
    exec (.divsr t c rd ra rb rc) s = divsrTyped t c rd ra rb rc s := by
  cases t <;> rfl

end Sys2Proof.Machine

namespace Sys2Proof.Proofs

open Sys2Proof.Machine Sys2Proof.Safety

/-- Settles O11: by the outcome of the instruction; one that completes has not halted. -/
theorem policySurvivesFatals : Obligations.PolicySurvivesFatals := by
  intro i s s' hr h hor
  cases exec_outcome h with
  | completed _ hc =>
    have hrun : s'.runState ≠ .halted := by simp [hc.status.runState, hr]
    have hi := hor.resolve_left hrun
    have hps : ([0x01, 0x02] : List Opc) ⊆ [0x01, 0x02, 0x03, 0x04] := by decide
    have hpsp : ([0x02, 0x03] : List Opc) ⊆ [0x01, 0x02, 0x03, 0x04] := by decide
    have hdec : (0x04 : Opc) ∈ ([0x01, 0x02, 0x03, 0x04] : List Opc) := by decide
    exact ⟨hc.ps fun h => hi (hps h), hc.psp fun h => hi (hpsp h), hc.dec fun h => hi (h ▸ hdec)⟩
  | halted => exact ⟨rfl, rfl, rfl⟩
  | suspended => exact ⟨rfl, rfl, rfl⟩

/-- Settles O19: by the depth, which is tested before the action. -/
theorem ppushSavesAndSets : Obligations.PpushSavesAndSets := by
  intro ra s
  refine ⟨fun hfull act => exec_ppush_full (by simp [hfull]) act ra, fun hlt a => ?_⟩
  have hroom : s.psp.val + 1 < Config.psDepth := Nat.succ_lt_succ hlt
  exact ⟨_, exec_ppush_actField hroom a ra, rfl, record_pushRecord s _ hroom, rfl⟩

/-- Settles O21: the PPUSH writes above `p`, and so does all that runs above `p`; PPOP writes no record. -/
theorem stackDiscipline : Obligations.StackDiscipline := by
  intro act ra is s s1 s2 s3 hpush hrun habove hpop hpsp
  obtain ⟨r, hlt, rfl⟩ := exec_ppush_running hpush hrun
  refine ⟨Fin.ext hpsp, fun k hk => ?_⟩
  have hpopped : s3.ps = s2.ps := exec_ps hpop (by decide)
  calc s3.ps[k] = s2.ps[k] := by rw [hpopped]
    _ = (pushRecord s r hlt).ps[k] := above_record habove (Nat.lt_succ_self s.psp.val) hk
    _ = s.ps[k] := (record_pushRecord s r hlt k).trans (if_neg (Nat.ne_of_lt (Nat.lt_succ_of_le hk)))

/-- Settles O23: by the mode. -/
theorem terminateHaltsOrReturns : Obligations.TerminateHaltsOrReturns := by
  intro s code o opc ws h
  rw [reportThenComplete_terminate code opc ws h]
  refine ⟨fun htm => ?_, fun htm => ?_⟩
  · simp [htm]
  · rw [if_pos htm]
    rfl

/-- Settles O24: by the place of the counter. -/
theorem countIncrementsOneWord : Obligations.CountIncrementsOneWord := by
  intro s code o opc ws h
  dsimp only
  rw [reportThenComplete_count code opc ws h]
  refine ⟨fun ha => ⟨_, congrArg _ (if_pos ha), rfl, fun b => ?_⟩, fun ha => congrArg _ (if_neg (Nat.not_lt.2 ha))⟩
  have hsum (w : Word) : w + 1 = BitVec.ofNat 32 (w.toNat + 1) := by simp [BitVec.ofNat_add]
  rw [← hsum]
  exact memWord_memInsert s.mem _ b _

/-- Settles O25: the code is tested before the place of the flag word. -/
theorem setFlagSetsOneBit : Obligations.SetFlagSetsOneBit := by
  intro s code o opc ws h
  dsimp only
  rw [reportThenComplete_setFlag code opc ws h]
  refine ⟨fun hc ha => ?_, fun hc ha => ?_, fun hc => if_pos hc⟩
  · rw [if_neg (Nat.not_le.2 hc), if_pos ha]
    refine ⟨_, rfl, rfl, fun b hb => (memWord_memInsert s.mem _ b _).trans (if_neg hb), fun k => ?_⟩
    rw [← getLsbD_or_bit _ hc]
    exact congrArg (BitVec.getLsbD · k) ((memWord_memInsert s.mem _ _ _).trans (if_pos rfl))
  · rw [if_neg (Nat.not_le.2 hc), if_neg (Nat.not_lt.2 ha)]

/-- Settles O26: the suspended state is the running one but for PEND, the run state and the event, and the reply finds
in PEND what the instruction had left to do. -/
theorem callbackSuspendsAndReplies : Obligations.CallbackSuspendsAndReplies := by
  intro s code o opc ws rest h hr hp
  refine ⟨_, reportThenComplete_callback code opc ws h, rfl, ?_, ?_⟩
  · rw [step_cons rfl, transact_callbackReply rfl rfl]
    exact congrArg _ (resume_suspended (s := { s with ev := _, input := rest }) hr hp _)
  · rw [step_cons rfl, transact_callbackReply rfl rfl]
    exact congrArg _ (abort_suspended (s := { s with ev := _, input := rest }) hp _)

/-- Settles O27: a report is refused for its kind where its override resolves to no action, and there only. -/
theorem overrideNeedsItsKind : Obligations.OverrideNeedsItsKind := by
  intro s code o opc ws
  rw [← resolveAction_eq_none_iff]
  cases ha : resolveAction o s.current with
  | none => simp [reportThenComplete_unresolved code opc ws ha]
  | some a => simp [reportThenComplete_ne_overrideKind code opc ws (resolveAction_eq_some_iff.1 ha)]

/-- Settles O28: by the list of writes. -/
theorem completionWrites : Obligations.CompletionWrites :=
  fun s ws => ⟨s.reg_writeRegs ws, s.complete_eq ws⟩

/-- Settles O18: the current record is the one at PSP. -/
theorem psetSetsCurrentRecord : Obligations.PsetSetsCurrentRecord := by
  intro a ra s
  refine ⟨(s.setCurrent { act := a, res := s.handle ra }).stepCC, ?_, record_setCurrent s _, rfl⟩
  simp [exec, execPset]

/-- Settles O20: each instruction's meaning is its next state. -/
theorem ppopSdecTmsetTmget : Obligations.PpopSdecTmsetTmget :=
  fun _ => ⟨⟨_, rfl, rfl, rfl⟩, fun _ => rfl, fun _ => rfl, fun _ => rfl⟩

/-- Settles O22: the level enters an instruction through its error code and Finish only. -/
theorem deferredUsesDec : Obligations.DeferredUsesDec := by
  intro t rd ra rb rc wide r s
  simp only [exec_add, exec_sub, exec_neg, exec_shl, exec_ms, exec_msr, exec_divm, exec_divr, exec_divsr, addTyped,
    subTyped, negTyped, shlTyped, msTyped, msrTyped, divmTyped, divrTyped, divsrTyped, finishValue_deferred,
    finish_deferred, finishChecked_deferred, levelCode_deferred, checkedCode_deferred, and_self]

/-- Settles O29: REPORT is one report without writes, so under Count it is the counter's store and the CC step. -/
theorem reportInstruction : Obligations.ReportInstruction := by
  intro e s
  refine ⟨rfl, fun hact ho ha => ⟨_, (reportThenComplete_count _ _ [] (.inl ⟨ho, hact⟩)).trans
    (congrArg _ (if_pos ha)), rfl, ?_⟩⟩
  exact (memWord_memInsert s.mem _ _ _).trans (if_pos rfl)

end Sys2Proof.Proofs
end

section
/-! PROOFS of the statements on the scalar arithmetic unit: ADD, SUB and NEG by their bit patterns, at every level, and
the runs of instructions that can neither report nor fail (41_scalar_arith.md). -/

namespace Sys2Proof

theorem Ty.width_pos (t : Ty) : 0 < t.width := by
  cases t <;> decide

end Sys2Proof

namespace Sys2Proof.Machine

open Sys2Proof.Safety

/-! ### The pattern and the range of a value (00_scope.md R7, R8) -/

/-- The pattern of the value of a pattern is that pattern. -/
@[simp] theorem ofInt_valueOf (signed : Bool) {w : Nat} (a : BitVec w) : BitVec.ofInt w (valueOf signed a) = a := by
  cases signed
  · exact (BitVec.ofInt_natCast w a.toNat).trans ((BitVec.ofNat_toNat w a).trans (BitVec.setWidth_eq a))
  · exact BitVec.ofInt_toInt

/-- Representable, by width and signedness. -/
theorem representable_iff_of_signed {t : Ty} (h : t.signed = true) (n : Int) :
    representable t n ↔ -2 ^ (t.width - 1) ≤ n ∧ n < 2 ^ (t.width - 1) := by
  simp only [← inRange_iff_representable, Ty.inRange, Ty.minVal, Ty.maxVal, h, if_true, Bool.and_eq_true,
    decide_eq_true_eq, Int.le_sub_one_iff]

theorem representable_iff_of_unsigned {t : Ty} (h : t.signed = false) (n : Int) :
    representable t n ↔ 0 ≤ n ∧ n < 2 ^ t.width := by
  simp only [← inRange_iff_representable, Ty.inRange, Ty.minVal, Ty.maxVal, h, Bool.false_eq_true, if_false,
    Bool.and_eq_true, decide_eq_true_eq, Int.le_sub_one_iff]

/-- The register image of an N-bit result has no bit above bit N-1 (10_state.md R21). -/
theorem wrapped_toNat_lt (t : Ty) (n : Int) : (t.wrapped n).toNat < 2 ^ t.width := by
  rw [Ty.wrapped, BitVec.toNat_setWidth]
  exact Nat.lt_of_le_of_lt (Nat.mod_le _ _) (t.wrap n).isLt

theorem saturated_toNat_lt (t : Ty) (neg : Bool) : (t.saturated neg).toNat < 2 ^ t.width := wrapped_toNat_lt t _

/-- The saturated result, as claims name it. -/
theorem saturated_eq_saturation (t : Ty) (neg : Bool) : t.saturated neg = saturation t neg := by
  cases t <;> cases neg <;> rfl

/-! ### The source's overflow tests are range tests (R121 to R124) -/

theorem addOverflows_iff {t : Ty} (a b : BitVec t.width) :
    addOverflows t a b ↔ ¬representable t (valueOf t.signed a + valueOf t.signed b) := by
  unfold addOverflows
  cases h : t.signed with
  | true =>
    have hbits : (a.msb = b.msb ∧ (a + b).msb ≠ a.msb) ↔ a.saddOverflow b = true := by
      simp [BitVec.saddOverflow_eq]
    simp only [if_true, hbits, representable_iff_of_signed h, valueOf, BitVec.saddOverflow, Bool.or_eq_true,
      decide_eq_true_eq]
    omega
  | false =>
    simp only [representable_iff_of_unsigned h, valueOf, Bool.false_eq_true, if_false, ← Nat.cast_add]
    norm_cast
    omega

theorem subOverflows_iff {t : Ty} (a b : BitVec t.width) :
    subOverflows t a b ↔ ¬representable t (valueOf t.signed a - valueOf t.signed b) := by
  unfold subOverflows
  cases h : t.signed with
  | true =>
    have hbits : (a.msb ≠ b.msb ∧ (a - b).msb ≠ a.msb) ↔ a.ssubOverflow b = true := by
      rw [BitVec.ssubOverflow_eq]
      cases a.msb <;> cases b.msb <;> simp
    simp only [if_true, hbits, representable_iff_of_signed h, valueOf, BitVec.ssubOverflow, Bool.or_eq_true,
      decide_eq_true_eq]
    omega
  | false =>
    have hlt : (a.toNat : Int) < 2 ^ t.width := mod_cast a.isLt
    simp only [representable_iff_of_unsigned h, valueOf, Bool.false_eq_true, if_false]
    omega

theorem eq_intMin_iff {t : Ty} (h : t.signed = true) (a : BitVec t.width) :
    a = BitVec.intMin t.width ↔ ¬representable t (-valueOf t.signed a) := by
  have hlow := a.le_toInt
  have hhigh := a.toInt_lt
  rw [← BitVec.toInt_inj, BitVec.toInt_intMin_of_pos t.width_pos, representable_iff_of_signed h, h, valueOf, if_pos rfl]
  omega

/-! ### The sign of a result that overflows (R124) -/

/-- An addition overflows away from zero: both operands have the sign of the true sum. -/
theorem add_neg_of_addOverflows {t : Ty} {a b : BitVec t.width} (ho : addOverflows t a b) :
    decide (valueOf t.signed a + valueOf t.signed b < 0) = (t.signed && a.msb) := by
  unfold addOverflows at ho
  cases h : t.signed with
  | true =>
    have hsame : a.msb = b.msb := (by simpa only [h, if_true] using ho : _ ∧ _).1
    simp only [BitVec.msb_eq_toInt, decide_eq_decide] at hsame
    simp only [valueOf, if_true, Bool.true_and, BitVec.msb_eq_toInt, decide_eq_decide]
    omega
  | false =>
    simp only [valueOf, Bool.false_eq_true, if_false, Bool.false_and, decide_eq_false_iff_not]
    omega

/-- A subtraction overflows toward the sign of the minuend; a borrow is a negative difference. -/
theorem sub_neg_of_subOverflows {t : Ty} {a b : BitVec t.width} (ho : subOverflows t a b) :
    decide (valueOf t.signed a - valueOf t.signed b < 0) = (!t.signed || a.msb) := by
  unfold subOverflows at ho
  cases h : t.signed with
  | true =>
    have hdiffer : a.msb ≠ b.msb := (by simpa only [h, if_true] using ho : _ ∧ _).1
    simp only [ne_eq, BitVec.msb_eq_toInt, decide_eq_decide] at hdiffer
    simp only [valueOf, if_true, Bool.not_true, Bool.false_or, BitVec.msb_eq_toInt, decide_eq_decide]
    omega
  | false =>
    have hborrow : a.toNat < b.toNat := by simpa [h] using ho
    simp only [valueOf, Bool.false_eq_true, if_false, Bool.not_false, Bool.true_or, decide_eq_true_eq]
    omega

/-- The negation that overflows is the positive one of the most negative value. -/
theorem neg_nonneg_of_intMin {t : Ty} (h : t.signed = true) {a : BitVec t.width} (ha : a = BitVec.intMin t.width) :
    decide (-valueOf t.signed a < 0) = false := by
  have hmin : a.toInt = -2 ^ (t.width - 1) := ha ▸ BitVec.toInt_intMin_of_pos t.width_pos
  have hpow : (0 : Int) < 2 ^ (t.width - 1) := by positivity
  simp only [h, valueOf, if_true, decide_eq_false_iff_not]
  omega

/-! ### Steps (2) to (4) of R120, by the range of the true result -/

/-- At level U, and at every level where the true result is representable, it is written. -/
theorem finishValue_plain {t : Ty} {l : Level} {n : Int} (h : l = .unchecked ∨ representable t n) (opc : Opc) (rd : Reg)
    (s : State) : finishValue t l opc rd n s = .next (completed s rd (image t n)) := by
  rcases h with rfl | hr
  · rfl
  · rw [finishValue, (inRange_iff_representable t n).2 hr]
    cases l <;> rfl

/-- A checked level of a result out of range is one report, with the saturated value to write. -/
theorem finishValue_overflow {t : Ty} {n : Int} (h : ¬representable t n) (c : Checked) (opc : Opc) (rd : Reg)
    (s : State) : finishValue t (.checked c) opc rd n s = reportThenComplete (s.checkedCode c) (checkedOverride c) opc
      [(rd, saturation t (decide (n < 0)))] s := by
  have hout : t.inRange n = false := by rwa [← inRange_iff_representable, Bool.not_eq_true] at h
  rw [finishValue, hout, saturated_eq_saturation]
  rfl

/-- The same by bit patterns: `v` is the pattern of the true result, `ovf` the source's test for it, and `neg` the sign
of a result that overflows. -/
theorem finishValue_bits {t : Ty} {n : Int} {v : BitVec t.width} {ovf : Prop} {neg : Bool}
    (hv : BitVec.ofInt t.width n = v) (hovf : ovf ↔ ¬representable t n) (hneg : ovf → decide (n < 0) = neg)
    (l : Level) (opc : Opc) (rd : Reg) (s : State) :
    (l = .unchecked ∨ ¬ovf → finishValue t l opc rd n s = .next (completed s rd (v.setWidth 64)))
    ∧ ∀ c, l = .checked c → ovf → finishValue t l opc rd n s
        = reportThenComplete (s.checkedCode c) (checkedOverride c) opc [(rd, saturation t neg)] s := by
  refine ⟨fun h => ?_, fun c hc ho => ?_⟩
  · rw [finishValue_plain (h.imp_right (by rw [hovf, not_not]; exact id)), image, hv]
  · rw [hc, finishValue_overflow (hovf.1 ho), hneg ho]

/-- Where the true result is representable, every level does what level U does. -/
theorem finishValue_levels {t : Ty} {n : Int} (h : representable t n) (l : Level) (opc : Opc) (rd : Reg) (s : State) :
    finishValue t l opc rd n s = finishValue t .unchecked opc rd n s
    ∧ finishValue t l opc rd n s = .next (completed s rd (image t n)) := by
  have hplain := finishValue_plain (.inr h : l = .unchecked ∨ _) opc rd s
  exact ⟨hplain.trans (finishValue_plain (.inl rfl) opc rd s).symm, hplain⟩

/-! ### Two runs that differ in registers only (R126) -/

/-- The state with other register contents. -/
def State.withRegs (s : State) (regs : Vector Dword Config.nReg) : State := { s with regs := regs }

/-- A source of a 32-bit type is read from the low half of its register. -/
theorem source_eq_of_low_eq {s u : State} {r : Reg} (h : (u.reg r).setWidth 32 = (s.reg r).setWidth 32) {t : Ty}
    (ht : t.width = 32) : u.source t r = s.source t r := by
  simp only [State.source, Ty.val]
  rw [ht, h]

/-- The states differ in registers only and, in RUN, agree on a 32-bit value of `rd`. -/
def SameButRegs (rd : Reg) (s' u' : State) : Prop :=
  u' = { s' with regs := u'.regs }
  ∧ (s'.runState = .run → u'.reg rd = s'.reg rd ∧ (s'.reg rd).toNat < 2 ^ 32)

/-- Where `o` is a next state, `o'` is one that is the same but for registers. -/
def AgreesWith (rd : Reg) (o o' : Result) : Prop := ∀ s', o = .next s' → ∃ u', o' = .next u' ∧ SameButRegs rd s' u'

section TwoRuns

variable {rd : Reg}

theorem SameButRegs.complete (s : State) (regs : Vector Dword Config.nReg) {v : Dword} (hv : v.toNat < 2 ^ 32) :
    SameButRegs rd (s.complete [(rd, v)]) ((s.withRegs regs).complete [(rd, v)]) := by
  refine ⟨rfl, fun _ => ?_⟩
  simpa [State.complete_one] using hv

/-- Of a unit that is not in RUN afterwards, no register is compared. -/
theorem SameButRegs.stopped (s' : State) (regs : Vector Dword Config.nReg) (h : s'.runState ≠ .run) :
    SameButRegs rd s' (s'.withRegs regs) := ⟨rfl, fun hr => absurd hr h⟩

theorem AgreesWith.next {s' u' : State} (h : SameButRegs rd s' u') : AgreesWith rd (.next s') (.next u') := by
  rintro _ ⟨⟩
  exact ⟨u', rfl, h⟩

theorem AgreesWith.refused (r : Refusal) (o' : Result) : AgreesWith rd (.refused r) o' := by
  rintro _ ⟨⟩

/-- The same test on both sides. -/
theorem AgreesWith.ite {c : Prop} [Decidable c] {x x' y y' : State} (hx : SameButRegs rd x x')
    (hy : SameButRegs rd y y') : AgreesWith rd (.next (if c then x else y)) (.next (if c then x' else y')) := by
  split
  · exact .next hx
  · exact .next hy

variable (s : State) (regs : Vector Dword Config.nReg)

/-- No action of a report reads a register. -/
theorem reportThenComplete_agrees {v : Dword} (hv : v.toNat < 2 ^ 32) (code : Code) (o : Option Action) (opc : Opc) :
    AgreesWith rd (reportThenComplete code o opc [(rd, v)] s)
      (reportThenComplete code o opc [(rd, v)] (s.withRegs regs)) := by
  cases ha : resolveAction o s.current with
  | none =>
    rw [reportThenComplete_unresolved code opc _ ha]
    exact .refused _ _
  | some a =>
    have hs : resolvesTo s o a := resolveAction_eq_some_iff.1 ha
    have hu : resolvesTo (s.withRegs regs) o a := hs
    have hhalt (cause : Cause) := SameButRegs.stopped (rd := rd) (haltedBy s cause code opc) regs (by simp [haltedBy])
    cases a with
    | terminate =>
      rw [reportThenComplete_terminate code opc _ hs, reportThenComplete_terminate code opc _ hu]
      exact .ite (.complete (s.log _) regs hv) (hhalt .terminate)
    | count =>
      rw [reportThenComplete_count code opc _ hs, reportThenComplete_count code opc _ hu]
      exact .ite (.complete (s.writeWord _ _) regs hv) (hhalt .memFault)
    | setFlag =>
      rw [reportThenComplete_setFlag code opc _ hs, reportThenComplete_setFlag code opc _ hu]
      split
      · exact .refused _ _
      · exact .ite (.complete (s.writeWord _ _) regs hv) (hhalt .memFault)
    | callback =>
      rw [reportThenComplete_callback code opc _ hs, reportThenComplete_callback code opc _ hu]
      exact .next (.stopped _ regs (by simp))

/-- A 32-bit result of the same true value. -/
theorem finishValue_agrees {t : Ty} (ht : t.width = 32) (l : Level) (opc : Opc) {n m : Int} (hm : m = n) :
    AgreesWith rd (finishValue t l opc rd n s) (finishValue t l opc rd m (s.withRegs regs)) := by
  have hplain : (t.wrapped n).toNat < 2 ^ 32 := ht ▸ wrapped_toNat_lt t n
  have hsat (neg : Bool) : (t.saturated neg).toNat < 2 ^ 32 := ht ▸ saturated_toNat_lt t neg
  subst hm
  cases l with
  | unchecked => exact .next (.complete s regs hplain)
  | checked c =>
    unfold finishValue
    cases t.inRange m with
    | true => exact .next (.complete s regs hplain)
    | false => exact reportThenComplete_agrees s regs (hsat _) (s.checkedCode c) _ opc

end TwoRuns

/-! ### Instructions that can neither report nor fail (R120; 60_exceptions.md R230) -/

theorem levelChecked_eq_none {l : Level} (h : levelChecked l = none) : l = .unchecked := by
  cases l with
  | unchecked => rfl
  | checked c => cases h

/-- Such an instruction answers a next state, with the run state and the queue of transactions as they were. -/
theorem exec_of_alwaysCompletes {i : Instr} (h : alwaysCompletes i) (s : State) :
    ∃ s', exec i s = .next s' ∧ s'.runState = s.runState ∧ s'.input = s.input := by
  obtain ⟨hlevel, hopc⟩ := h
  cases i with
  | ppop | sdec | tmset | tmget | mulwS32 | mulwU32 => exact ⟨_, rfl, rfl, rfl⟩
  | addS32 l | addU32 l | addS64 l | addU64 l | subS32 l | subU32 l | subS64 l | subU64 l | negS32 l | negS64 l =>
    obtain rfl : l = .unchecked := levelChecked_eq_none hlevel
    exact ⟨_, rfl, rfl, rfl⟩
  | _ => simp [Instr.opcode] at hopc

end Sys2Proof.Machine

namespace Sys2Proof.Proofs

open Sys2Proof.Machine Sys2Proof.Safety

/-- Settles O16: by the number of steps; each is idle or one instruction that completes. -/
theorem uncheckedRunsAreSafe : Obligations.UncheckedRunsAreSafe := by
  intro n
  induction n with
  | zero => exact fun s hr _ => by simp [safeFor, hr]
  | succ n ih =>
    intro s hr hinput
    refine ⟨by simp [hr], ?_⟩
    cases hi : s.input with
    | nil => exact ⟨s, step_nil hi, ih s hr hinput⟩
    | cons t rest =>
      rw [hi] at hinput
      obtain ⟨⟨w, i, rfl, hd, hcompletes⟩, hrest⟩ := List.forall_mem_cons.1 hinput
      obtain ⟨s', he, hrun, hqueue⟩ := exec_of_alwaysCompletes hcompletes { s with input := rest }
      have hissue : transact (.issue w) { s with input := rest } = exec i { s with input := rest } :=
        transact_issue_of_decode hr hd
      have hstep : step s = .next s' := (step_cons hi).trans (hissue.trans he)
      exact ⟨s', hstep, ih s' (hrun.trans hr) (hqueue ▸ hrest)⟩

/-- Settles O36: the sign or carry test is the range test of the true sum. -/
theorem addWrapsOrSaturates : Obligations.AddWrapsOrSaturates := by
  intro t l rd ra rb s a b
  have hsum : BitVec.ofInt t.width (valueOf t.signed a + valueOf t.signed b) = a + b := by simp [BitVec.ofInt_add]
  rw [exec_add]
  exact finishValue_bits hsum (addOverflows_iff a b) add_neg_of_addOverflows l 0x10 rd s

/-- Settles O37: the sign or borrow test is the range test of the true difference. -/
theorem subWrapsOrSaturates : Obligations.SubWrapsOrSaturates := by
  intro t l rd ra rb s a b
  have hdiff : BitVec.ofInt t.width (valueOf t.signed a - valueOf t.signed b) = a - b := by
    simp [sub_eq_add_neg, BitVec.ofInt_add, BitVec.ofInt_neg]
  rw [exec_sub]
  exact finishValue_bits hdiff (subOverflows_iff a b) sub_neg_of_subOverflows l 0x11 rd s

/-- Settles O38: the most negative value is the only one whose negation is out of range. -/
theorem negOverflowsAtTheMinimum : Obligations.NegOverflowsAtTheMinimum := by
  intro wide l rd ra s t a
  have hsigned : t.signed = true := by cases wide <;> rfl
  have hneg : BitVec.ofInt t.width (-valueOf t.signed a) = -a := by simp [BitVec.ofInt_neg]
  rw [exec_neg]
  exact finishValue_bits hneg (eq_intMin_iff hsigned a) (neg_nonneg_of_intMin hsigned) l 0x12 rd s

/-- Settles O39: the level enters ADD, SUB and NEG only where the true result is out of range. -/
theorem levelsAgree : Obligations.LevelsAgree := by
  intro t wide l rd ra rb s ts
  simp only [exec_add, exec_sub, exec_neg]
  exact ⟨fun h => finishValue_levels h l 0x10 rd s, fun h => finishValue_levels h l 0x11 rd s,
    fun h => finishValue_levels h l 0x12 rd s⟩

/-- Settles O40: the sources are the same in both runs, and nothing else of an instruction reads a register. -/
theorem upperHalfIsIgnored : Obligations.UpperHalfIsIgnored := by
  intro i l rd ra rb s u s' hi hu hra hrb _ he
  have ha {t : Ty} (ht : t.width = 32) : u.source t ra = s.source t ra := source_eq_of_low_eq hra ht
  have hb {t : Ty} (ht : t.width = 32) : u.source t rb = s.source t rb := source_eq_of_low_eq hrb ht
  have hagrees : AgreesWith rd (exec i s) (exec i (s.withRegs u.regs)) := by
    rcases hi with rfl | rfl | rfl | rfl | rfl
    · exact finishValue_agrees s u.regs rfl l 0x10 (congrArg₂ (· + ·) (ha rfl) (hb rfl))
    · exact finishValue_agrees s u.regs rfl l 0x10 (congrArg₂ (· + ·) (ha rfl) (hb rfl))
    · exact finishValue_agrees s u.regs rfl l 0x11 (congrArg₂ (· - ·) (ha rfl) (hb rfl))
    · exact finishValue_agrees s u.regs rfl l 0x11 (congrArg₂ (· - ·) (ha rfl) (hb rfl))
    · exact finishValue_agrees s u.regs rfl l 0x12 (congrArg (- ·) (ha rfl))
  obtain ⟨u', hexec, hsame⟩ := hagrees s' he
  exact ⟨u', (congrArg (exec i) hu).trans hexec, hsame⟩

end Sys2Proof.Proofs
end

section
/-! PROOFS of the statements on the barrel shifters: SHL, SHR and SHRR by their bit patterns, the rounding of SHRR, and
the shift amounts out of range (42_shift.md). -/

namespace Sys2Proof.Machine

open Sys2Proof.Safety

/-! ### The amount (R140) -/

/-- A register that is below a limit as an unsigned number is in range as a signed one. -/
theorem withAmount_inRange {x : Dword} {limit : Nat} (hx : x.toNat < limit) (hlimit : limit ≤ 2 ^ 63) (ec : Code)
    (opc : Opc) (rd : Reg) (s : State) (k : Nat → Result) : withAmount x.toInt limit ec opc rd s k = k x.toNat := by
  have hsigned : x.toInt = x.toNat := BitVec.toInt_eq_toNat_of_lt (by omega)
  rw [withAmount, hsigned, if_pos ⟨Int.natCast_nonneg _, Int.ofNat_lt.2 hx⟩, Int.toNat_natCast]

/-- Outside its range the amount is SHIFTRANGE, whatever the instruction would do with it. -/
theorem withAmount_outOfRange {n : Int} {limit : Nat} (h : n < 0 ∨ (limit : Int) ≤ n) (ec : Code) (opc : Opc) (rd : Reg)
    (s : State) (k : Nat → Result) :
    withAmount n limit ec opc rd s k = .next (fatalOutcome s .shiftRange ec opc rd) := by
  rw [withAmount, if_neg (by omega), fatalOrSentinel_eq_fatalOutcome rfl]

theorem width_le_two_pow (t : Ty) : t.width ≤ 2 ^ 63 := by
  cases t <;> decide

/-! ### The three meanings, by an amount in range (R141 to R143) -/

theorem exec_shr (t : Ty) (rd ra rb : Reg) (s : State) : exec (.shr t rd ra rb) s = shrTyped t rd ra rb s := by
  cases t <;> rfl

theorem exec_shrr (t : Ty) (rd ra rb : Reg) (s : State) : exec (.shrr t rd ra rb) s = shrrTyped t rd ra rb s := by
  cases t <;> rfl

/-- Scaling by a power of two keeps the sign. -/
theorem decide_mul_two_pow_neg (n : Int) (k : Nat) : decide (n * 2 ^ k < 0) = decide (n < 0) := by
  have hpow : (0 : Int) < 2 ^ k := by positivity
  exact decide_eq_decide.2 (by simpa only [zero_mul] using mul_lt_mul_iff_left₀ (b := n) (c := 0) hpow)

section InRange

variable {t : Ty} {rb : Reg} {s : State} (h : (s.reg rb).toNat < t.width)

include h

/-- SHL finishes the exact product: the sign of the operand, which R141 saturates by, is that of the product. -/
theorem exec_shl_inRange (l : Level) (rd ra : Reg) : exec (.shl t l rd ra rb) s
    = finishValue t l 0x20#8 rd (valueOf t.signed (low t (s.reg ra)) * 2 ^ (s.reg rb).toNat) s := by
  rw [exec_shl, shlTyped, State.amount, withAmount_inRange h (width_le_two_pow t),
    ← decide_mul_two_pow_neg _ (s.reg rb).toNat]
  rfl

theorem exec_shr_inRange (rd ra : Reg) : exec (.shr t rd ra rb) s
    = .next (completed s rd (image t (valueOf t.signed (low t (s.reg ra)) / 2 ^ (s.reg rb).toNat))) := by
  rw [exec_shr, shrTyped, State.amount, withAmount_inRange h (width_le_two_pow t)]
  rfl

theorem exec_shrr_inRange (rd ra : Reg) : exec (.shrr t rd ra rb) s
    = .next (completed s rd (image t (roundShift (valueOf t.signed (low t (s.reg ra))) (s.reg rb).toNat))) := by
  rw [exec_shrr, shrrTyped, State.amount, withAmount_inRange h (width_le_two_pow t)]
  rfl

end InRange

/-! ### The bits of a pattern and its value (00_scope.md R7) -/

theorem valueOf_true {w : Nat} (p : BitVec w) : valueOf true p = p.toInt := rfl

theorem valueOf_false {w : Nat} (p : BitVec w) : valueOf false p = p.toNat := rfl

/-- The sign of a value is the top bit of its pattern, for a signed type. -/
theorem decide_valueOf_neg (signed : Bool) {w : Nat} (p : BitVec w) :
    decide (valueOf signed p < 0) = (signed && p.msb) := by
  cases signed with
  | true => exact (BitVec.msb_eq_toInt ..).symm
  | false => simp [valueOf]

/-- A value of a type is representable in it. -/
theorem representable_valueOf {t : Ty} (p : BitVec t.width) : representable t (valueOf t.signed p) := by
  cases h : t.signed with
  | true => exact (representable_iff_of_signed h _).2 ⟨p.le_toInt, p.toInt_lt⟩
  | false =>
    have hlt : (p.toNat : Int) < 2 ^ t.width := mod_cast p.isLt
    exact (representable_iff_of_unsigned h _).2 ⟨Int.natCast_nonneg _, hlt⟩

/-- The pattern of a value times a power of two is the shifted pattern. -/
theorem ofInt_valueOf_mul_two_pow (signed : Bool) {w : Nat} (p : BitVec w) (k : Nat) :
    BitVec.ofInt w (valueOf signed p * 2 ^ k) = p <<< k := by
  have hpow : BitVec.ofInt w (2 ^ k) = BitVec.twoPow w k := by
    refine BitVec.eq_of_toNat_eq ?_
    rw [BitVec.toNat_twoPow, ← BitVec.toNat_ofNat, ← BitVec.ofInt_natCast]
    norm_cast
  rw [BitVec.ofInt_mul, ofInt_valueOf, hpow, BitVec.mul_twoPow_eq_shiftLeft]

/-- A shift right divides the value, rounding down (R142). -/
theorem valueOf_shiftedRight (t : Ty) (p : BitVec t.width) (k : Nat) :
    valueOf t.signed (shiftedRight t p k) = valueOf t.signed p / 2 ^ k := by
  unfold shiftedRight valueOf
  cases t.signed with
  | true => simp [BitVec.toInt_sshiftRight, Int.shiftRight_eq_div_pow]
  | false => simp [Nat.shiftRight_eq_div_pow]

/-- A value is odd when bit 0 of its pattern is set, signed or not. -/
theorem valueOf_emod_two (signed : Bool) {w : Nat} (hw : 0 < w) (p : BitVec w) :
    valueOf signed p % 2 = (p.getLsbD 0).toInt := by
  have hbit : (p.toNat : Int) % 2 = (p.getLsbD 0).toInt := by
    rw [← BitVec.testBit_toNat, Nat.testBit_zero]
    by_cases hodd : p.toNat % 2 = 1
    · rw [decide_eq_true hodd, Bool.toInt_true]
      exact mod_cast hodd
    · rw [decide_eq_false hodd, Bool.toInt_false]
      exact mod_cast Nat.mod_two_ne_one.1 hodd
  have heven : (2 : Int) ∣ ((2 ^ w : Nat) : Int) := mod_cast dvd_pow_self 2 hw.ne'
  cases signed with
  | true =>
    rw [valueOf_true, BitVec.toInt_eq_toNat_cond]
    split <;> omega
  | false => exact hbit

theorem getLsbD_zero_shiftedRight {t : Ty} {j : Nat} (hj : j < t.width) (p : BitVec t.width) :
    (shiftedRight t p j).getLsbD 0 = p.getLsbD j := by
  unfold shiftedRight
  cases t.signed with
  | true => simpa [t.width_pos.ne', hj] using BitVec.getLsbD_sshiftRight p j 0
  | false => simp

/-- Bit `j` of a pattern, from its value. -/
theorem valueOf_div_two_pow_emod_two {t : Ty} {j : Nat} (hj : j < t.width) (p : BitVec t.width) :
    valueOf t.signed p / 2 ^ j % 2 = (p.getLsbD j).toInt := by
  rw [← valueOf_shiftedRight, valueOf_emod_two _ t.width_pos, getLsbD_zero_shiftedRight hj]

theorem two_pow_succ_dvd_iff (m : Nat) (n : Int) : 2 ^ (m + 1) ∣ n ↔ 2 ^ m ∣ n ∧ n / 2 ^ m % 2 = 0 := by
  rw [pow_succ, ← Int.dvd_iff_emod_eq_zero]
  exact ⟨fun h => ⟨dvd_of_mul_right_dvd h, (Int.dvd_div_iff_mul_dvd (dvd_of_mul_right_dvd h)).2 h⟩,
    fun ⟨hlow, h⟩ => (Int.dvd_div_iff_mul_dvd hlow).1 h⟩

/-- The low bits are clear when the value is a multiple of their weight. -/
theorem two_pow_dvd_valueOf_iff {t : Ty} {m : Nat} (hm : m ≤ t.width) (p : BitVec t.width) :
    2 ^ m ∣ valueOf t.signed p ↔ ∀ j, j < m → p.getLsbD j = false := by
  induction m with
  | zero => simp
  | succ m ih =>
    have hlast : (p.getLsbD m).toInt = 0 ↔ p.getLsbD m = false := by cases p.getLsbD m <;> simp
    rw [two_pow_succ_dvd_iff, valueOf_div_two_pow_emod_two hm, hlast, ih (by omega), Nat.forall_lt_succ_right]

/-! ### The overflow test of a left shift (R146) -/

/-- A pattern is below `2^m` when its bits from `m` on are clear. -/
theorem toNat_lt_two_pow_iff {w m : Nat} (hm : m < w) (p : BitVec w) :
    p.toNat < 2 ^ m ↔ ∀ i, m ≤ i → i ≤ w - 1 → p.getLsbD i = false := by
  rw [BitVec.toNat_lt_iff_getLsbD_eq_false m hm]
  refine ⟨fun h i hi _ => Nat.add_sub_cancel' hi ▸ h (i - m), fun h k => ?_⟩
  by_cases hk : m + k < w
  · exact h _ (by omega) (by omega)
  · exact BitVec.getLsbD_of_ge p _ (by omega)

/-- A signed value fits `m + 1` bits when the bits from `m` on are all the sign bit: the complement of a negative
pattern is the pattern of `-1 - v`. -/
theorem toInt_mem_iff {w m : Nat} (hm : m < w) (p : BitVec w) :
    (-2 ^ m ≤ p.toInt ∧ p.toInt < 2 ^ m) ↔ ∀ i, m ≤ i → i ≤ w - 1 → p.getLsbD i = p.getLsbD (w - 1) := by
  rw [← BitVec.msb_eq_getLsbD_last]
  cases hsign : p.msb with
  | false =>
    rw [← toNat_lt_two_pow_iff hm, BitVec.toInt_eq_toNat_of_msb hsign]
    norm_cast
    omega
  | true =>
    have hflip : (∀ i, m ≤ i → i ≤ w - 1 → p.getLsbD i = true)
        ↔ ∀ i, m ≤ i → i ≤ w - 1 → (~~~p).getLsbD i = false := by
      refine forall_congr' fun i => forall_congr' fun _ => forall_congr' fun hi => ?_
      have hiw : i < w := by omega
      simp [hiw]
    have hvalue : p.toInt = -1 - (~~~p).toNat := by
      have hlt := p.isLt
      rw [BitVec.toInt_eq_msb_cond, if_pos hsign, BitVec.toNat_not]
      omega
    rw [hflip, ← toNat_lt_two_pow_iff hm, hvalue]
    zify
    omega

/-- The bits shifted out tell whether the exact product is representable. -/
theorem shlOverflows_iff {t : Ty} {k : Nat} (hk : k < t.width) (p : BitVec t.width) :
    shlOverflows t p k ↔ ¬representable t (valueOf t.signed p * 2 ^ k) := by
  rcases Nat.eq_zero_or_pos k with rfl | hpos
  · simp [shlOverflows, representable_valueOf]
  have hpow : (0 : Int) < 2 ^ k := by positivity
  unfold shlOverflows
  cases h : t.signed with
  | true =>
    have hbound : (2 : Int) ^ (t.width - 1) = 2 ^ (t.width - 1 - k) * 2 ^ k := (pow_sub_mul_pow 2 (by omega)).symm
    rw [representable_iff_of_signed h, hbound, ← neg_mul, mul_le_mul_iff_left₀ hpow, mul_lt_mul_iff_left₀ hpow,
      valueOf_true, toInt_mem_iff (by omega)]
    simp [hpos]
  | false =>
    have hbound : (2 : Int) ^ t.width = 2 ^ (t.width - k) * 2 ^ k := (pow_sub_mul_pow 2 hk.le).symm
    have hfits : (p.toNat : Int) < 2 ^ (t.width - k) ↔ p.toNat < 2 ^ (t.width - k) := by norm_cast
    have hnonneg : (0 : Int) ≤ p.toNat * 2 ^ k := by positivity
    rw [representable_iff_of_unsigned h, hbound, valueOf_false, mul_lt_mul_iff_left₀ hpow, hfits,
      toNat_lt_two_pow_iff (by omega)]
    simp [hpos, hnonneg]

/-! ### The rounding shift (R143 to R145) -/

/-- Rounding to the nearest, a tie upward, from the value without its last discarded bit. -/
theorem roundShift_of_pos {k : Nat} (hk : 0 < k) (n : Int) : roundShift n k = (n / 2 ^ (k - 1) + 1) / 2 := by
  obtain ⟨j, rfl⟩ : ∃ j, k = j + 1 := ⟨k - 1, by omega⟩
  have hpow : (2 : Int) ^ j ≠ 0 := by positivity
  rw [roundShift, if_neg (by omega), Nat.add_sub_cancel, pow_succ, ← Int.ediv_ediv_of_nonneg (by positivity),
    Int.add_ediv_of_dvd_right dvd_rfl, Int.ediv_self hpow]

theorem ediv_two_pow_of_pos {k : Nat} (hk : 0 < k) (n : Int) : n / 2 ^ k = n / 2 ^ (k - 1) / 2 := by
  rw [Int.ediv_ediv_of_nonneg (by positivity), ← pow_succ, Nat.sub_add_cancel hk]

/-- The rounded shift is the floor plus the last discarded bit (R145). -/
theorem roundShift_eq_floor_add {k : Nat} (hk : 0 < k) (n : Int) :
    roundShift n k = n / 2 ^ k + n / 2 ^ (k - 1) % 2 := by
  rw [roundShift_of_pos hk, ediv_two_pow_of_pos hk]
  omega

/-- The floor by bit patterns: the shift right (R142). -/
theorem image_div {t : Ty} (p : BitVec t.width) (k : Nat) :
    image t (valueOf t.signed p / 2 ^ k) = (shiftedRight t p k).setWidth 64 := by
  rw [image, ← valueOf_shiftedRight, ofInt_valueOf]

/-- The rounded shift by bit patterns (R145). -/
theorem image_roundShift {t : Ty} {k : Nat} (hk : k < t.width) (p : BitVec t.width) :
    image t (roundShift (valueOf t.signed p) k) = (if 0 < k ∧ p.getLsbD (k - 1) = true then shiftedRight t p k + 1
      else shiftedRight t p k).setWidth 64 := by
  rcases Nat.eq_zero_or_pos k with rfl | hpos
  · simpa [roundShift] using image_div p 0
  · rw [image, roundShift_eq_floor_add hpos, valueOf_div_two_pow_emod_two (by omega), ← valueOf_shiftedRight,
      BitVec.ofInt_add, ofInt_valueOf]
    cases p.getLsbD (k - 1) <;> simp [hpos]

/-- The discarded bits are exactly one half: the last of them is set, and those below it are clear (R144). -/
def IsTie (n : Int) (k : Nat) : Prop := n / 2 ^ (k - 1) % 2 = 1 ∧ 2 ^ (k - 1) ∣ n

/-- A tie goes upward, so rounding the opposite is one off there (R144). -/
theorem roundShift_of_isTie {k : Nat} (hk : 0 < k) {n : Int} (h : IsTie n k) :
    roundShift n k = -roundShift (-n) k + 1 := by
  obtain ⟨hodd, hdvd⟩ := h
  rw [roundShift_of_pos hk, roundShift_of_pos hk, Int.neg_ediv_of_dvd hdvd]
  omega

/-- Everywhere else rounding commutes with the change of sign: the quotient by `2^(k-1)` is even, or not exact. -/
theorem roundShift_of_not_isTie {k : Nat} (hk : 0 < k) {n : Int} (h : ¬IsTie n k) :
    roundShift n k = -roundShift (-n) k := by
  rw [roundShift_of_pos hk, roundShift_of_pos hk, Int.neg_ediv, Int.sign_eq_one_of_pos (by positivity)]
  split
  case isTrue hdvd =>
    have heven : n / 2 ^ (k - 1) % 2 ≠ 1 := fun hodd => h ⟨hodd, hdvd⟩
    omega
  case isFalse => omega

/-- The tie by the bits of the pattern. -/
theorem isTie_iff {t : Ty} {k : Nat} (hpos : 0 < k) (hk : k < t.width) (p : BitVec t.width) :
    IsTie (valueOf t.signed p) k ↔ p.getLsbD (k - 1) = true ∧ ∀ j, j < k - 1 → p.getLsbD j = false := by
  rw [IsTie, valueOf_div_two_pow_emod_two (by omega), two_pow_dvd_valueOf_iff (by omega)]
  cases p.getLsbD (k - 1) <;> simp

end Sys2Proof.Machine

namespace Sys2Proof.Proofs

open Sys2Proof.Machine Sys2Proof.Safety

/-- Settles O45: all three test the amount first, in the same way. -/
theorem shiftRangeIsFatal : Obligations.ShiftRangeIsFatal := by
  intro t l rd ra rb s h
  rw [exec_shl, exec_shr, exec_shrr]
  exact ⟨withAmount_outOfRange h .., withAmount_outOfRange h .., withAmount_outOfRange h ..⟩

/-- Settles O42: the machine's range test is that of the bounds of the type, which the exact product meets when no
significant bit is shifted out. -/
theorem shlBitTestIsRangeTest : Obligations.ShlBitTestIsRangeTest := by
  intro t p k hk
  rw [shlOverflows_iff hk, ← inRange_iff_representable, Bool.not_eq_true]

/-- Settles O41: SHL finishes the exact product, whose range test is the test on the bits shifted out. -/
theorem shlLosesNoBit : Obligations.ShlLosesNoBit := by
  intro t l rd ra rb s p k hk
  rw [exec_shl_inRange hk]
  exact finishValue_bits (ofInt_valueOf_mul_two_pow t.signed p k) (shlOverflows_iff hk p)
    (fun _ => (decide_mul_two_pow_neg ..).trans (decide_valueOf_neg ..)) l 0x20 rd s

/-- Settles O43: SHRR is the floor plus the last discarded bit. -/
theorem shrrAddsRoundBit : Obligations.ShrrAddsRoundBit := by
  intro t rd ra rb s p k hk
  rw [exec_shr_inRange hk, exec_shrr_inRange hk, image_div, image_roundShift hk]
  exact ⟨rfl, rfl⟩

/-- Settles O44: the magnitude of a negative value is its opposite, and rounding the opposite differs at a tie only. -/
theorem shrrIsNotMagnitudeRounding : Obligations.ShrrIsNotMagnitudeRounding := by
  intro t rd ra rb s a k half magnitude hpos hk
  have hmagnitude : magnitude = roundShift a.natAbs k := (if_neg hpos.ne').symm
  have htie : IsTie a k ↔ half := isTie_iff hpos hk _
  have hexec : exec (.shrr t rd ra rb) s = .next (completed s rd (image t (roundShift a k))) :=
    exec_shrr_inRange hk rd ra
  rw [hexec, hmagnitude]
  refine ⟨fun ha => ?_, fun ha hnot => ?_, fun ha hhalf => ?_⟩
  · rw [Int.natAbs_of_nonneg ha]
  · rw [Int.ofNat_natAbs_of_nonpos ha.le, ← roundShift_of_not_isTie hpos (htie.not.2 hnot)]
  · rw [Int.ofNat_natAbs_of_nonpos ha.le, ← roundShift_of_isTie hpos (htie.2 hhalf)]

end Sys2Proof.Proofs
end

section
/-! PROOFS of the statements on the multiplier and its scale-shift pipeline: the exact product of MULW, the scaled and
the rounded product of MS and MSR, and the scales out of range (43_multiply.md). -/

namespace Sys2Proof.Machine

open Sys2Proof.Safety

/-! ### The exact product of MULW (R161) -/

/-- 64 bits hold the product of two signed 32-bit values. -/
theorem toInt_ofInt_mul_toInt (a b : BitVec 32) : (BitVec.ofInt 64 (a.toInt * b.toInt)).toInt = a.toInt * b.toInt := by
  have hlow : -2 ^ 62 ≤ a.toInt * b.toInt := by simpa using BitVec.le_toInt_mul_toInt (x := a) (y := b)
  have hhigh : a.toInt * b.toInt ≤ 2 ^ 62 := by simpa using BitVec.toInt_mul_toInt_le (x := a) (y := b)
  exact BitVec.toInt_ofInt_eq_self (by decide) (by omega) (by omega)

/-- 64 bits hold the product of two unsigned 32-bit values. -/
theorem toNat_ofInt_mul_toNat (a b : BitVec 32) : (BitVec.ofInt 64 (a.toNat * b.toNat)).toNat = a.toNat * b.toNat := by
  have hlt : a.toNat * b.toNat < 2 ^ 64 := BitVec.toNat_mul_toNat_lt
  rw [← Int.natCast_mul, BitVec.ofInt_natCast, BitVec.toNat_ofNat, Nat.mod_eq_of_lt hlt]

/-! ### MS and MSR by a scale in range (R160, R162, R163) -/

theorem width_add_le_two_pow (t : Ty) : t.width + 32 ≤ 2 ^ 63 := by
  cases t <;> decide

/-- A true result is written, or reported, as the level and its range say (R120 in 41_scalar_arith.md). -/
theorem finishValue_writes_or_reports (t : Ty) (l : Level) (opc : Opc) (rd : Reg) (n : Int) (s : State) :
    (l = .unchecked ∨ representable t n → finishValue t l opc rd n s = .next (completed s rd (image t n)))
    ∧ ∀ c, l = .checked c → ¬representable t n → finishValue t l opc rd n s
        = reportThenComplete (s.checkedCode c) (checkedOverride c) opc [(rd, saturation t (decide (n < 0)))] s := by
  refine ⟨fun h => finishValue_plain h opc rd s, ?_⟩
  rintro c rfl h
  exact finishValue_overflow h c opc rd s

section InRange

variable {t : Ty} {rc : Reg} {s : State} (h : (s.reg rc).toNat < t.width + 32)

include h

theorem exec_ms_inRange (l : Level) (rd ra rb : Reg) : exec (.ms t l rd ra rb rc) s
    = finishValue t l 0x31#8 rd (s.product t ra rb / 2 ^ (s.reg rc).toNat) s := by
  rw [exec_ms, msTyped, State.amount, withAmount_inRange h (width_add_le_two_pow t)]

theorem exec_msr_inRange (l : Level) (rd ra rb : Reg) : exec (.msr t l rd ra rb rc) s
    = finishValue t l 0x32#8 rd (roundShift (s.product t ra rb) (s.reg rc).toNat) s := by
  rw [exec_msr, msrTyped, State.amount, withAmount_inRange h (width_add_le_two_pow t)]

end InRange

/-- The product by the patterns of its operands (R160). -/
theorem product_eq (s : State) (t : Ty) (ra rb : Reg) : s.product t ra rb
    = valueOf t.signed (low t (s.reg ra)) * valueOf t.signed ((s.reg rb).setWidth 32) := rfl

/-! ### The scaled value is the only one between its bounds (R162, R163) -/

/-- The floor. -/
theorem ediv_two_pow_eq {n v : Int} {k : Nat} (hlow : v * 2 ^ k ≤ n) (hhigh : n < (v + 1) * 2 ^ k) : n / 2 ^ k = v :=
  (Int.ediv_eq_iff_of_pos (by positivity)).2 ⟨hlow, add_one_mul v _ ▸ hhigh⟩

/-- The nearest integer, a tie upward: the floor of the value with one half added. -/
theorem roundShift_eq {n v : Int} {k : Nat} (hlow : (2 * v - 1) * 2 ^ k ≤ 2 * n) (hhigh : 2 * n < (2 * v + 1) * 2 ^ k) :
    roundShift n k = v := by
  cases k with
  | zero =>
    rw [roundShift, if_pos rfl]
    omega
  | succ j =>
    rw [roundShift, if_neg (Nat.succ_ne_zero j), Nat.add_sub_cancel]
    rw [pow_succ] at hlow hhigh
    exact ediv_two_pow_eq (by rw [pow_succ]; linarith) (by rw [pow_succ]; linarith)

/-! ### Multiplied by one (R166) -/

theorem product_of_multiplier_one {s : State} {rb : Reg} (h : (s.reg rb).setWidth 32 = 1#32) (t : Ty) (ra : Reg) :
    s.product t ra rb = valueOf t.signed (low t (s.reg ra)) := by
  have hone : valueOf t.signed (1#32) = 1 := by cases t <;> rfl
  rw [product_eq, h, hone, mul_one]

/-- A shift right stays in the range of its type. -/
theorem representable_div (t : Ty) (p : BitVec t.width) (k : Nat) :
    representable t (valueOf t.signed p / 2 ^ k) := by
  rw [← valueOf_shiftedRight]
  exact representable_valueOf _

theorem representable_half {t : Ty} {n : Int} (h : representable t n) : representable t ((n + 1) / 2) := by
  cases t <;> simp only [representable] at h ⊢ <;> omega

/-- So does a rounded one: it is half of a shift right plus one, which is in range again. -/
theorem representable_roundShift (t : Ty) (p : BitVec t.width) (k : Nat) :
    representable t (roundShift (valueOf t.signed p) k) := by
  rcases Nat.eq_zero_or_pos k with rfl | hpos
  · exact representable_valueOf p
  · rw [roundShift_of_pos hpos]
    exact representable_half (representable_div t p (k - 1))

/-- The multiplier as a pattern of the width of its type: extended with the signedness of the type (R160). -/
theorem ofInt_valueOf_extend (signed : Bool) {w : Nat} (x : BitVec w) (n : Nat) :
    BitVec.ofInt n (valueOf signed x) = if signed then x.signExtend n else x.setWidth n := by
  cases signed with
  | true => rfl
  | false => exact (BitVec.ofInt_natCast n x.toNat).trans (BitVec.ofNat_toNat n x)

/-- The low bits of the product are the product of the patterns (R166). -/
theorem image_product (s : State) (t : Ty) (ra rb : Reg) : image t (s.product t ra rb)
    = (low t (s.reg ra) * if t.signed then ((s.reg rb).setWidth 32).signExtend t.width
        else ((s.reg rb).setWidth 32).setWidth t.width).setWidth 64 := by
  rw [image, product_eq, BitVec.ofInt_mul, ofInt_valueOf, ofInt_valueOf_extend]

/-! ### Scales out of range (R160; 44_divide.md R183) -/

/-- DIVSR tests its scale before its divisor. -/
theorem divsrTyped_scaleOutOfRange {s : State} {rc : Reg} (h : s.amount rc ≤ -64 ∨ 64 ≤ s.amount rc) (t : Ty)
    (c : Checked) (rd ra rb : Reg) :
    divsrTyped t c rd ra rb rc s = .next (fatalOutcome s .shiftRange (s.checkedCode c) 0x42 rd) := by
  have hout : ¬(-64 < s.amount rc ∧ s.amount rc < 64) := by omega
  exact (if_pos hout).trans (fatalOrSentinel_eq_fatalOutcome rfl ..)

end Sys2Proof.Machine

namespace Sys2Proof.Proofs

open Sys2Proof.Machine Sys2Proof.Safety

/-- Settles O46: 64 bits hold either product. -/
theorem mulwIsExact : Obligations.MulwIsExact := by
  intro rd ra rb s
  refine ⟨⟨_, rfl, ?_⟩, ⟨_, rfl, ?_⟩⟩
  · exact toInt_ofInt_mul_toInt ..
  · exact toNat_ofInt_mul_toNat ..

/-- Settles O47: the bounds leave one value, the floor. -/
theorem msFloorsTheProduct : Obligations.MsFloorsTheProduct := by
  intro t l rd ra rb rc s v p k hk hlow hhigh
  have hfloor : s.product t ra rb / 2 ^ k = v := ediv_two_pow_eq hlow hhigh
  rw [exec_ms_inRange hk, hfloor]
  exact finishValue_writes_or_reports t l 0x31 rd v s

/-- Settles O48: the bounds leave one value, the floor of the product with one half added. -/
theorem msrRoundsTheProduct : Obligations.MsrRoundsTheProduct := by
  intro t l rd ra rb rc s v p k hk hlow hhigh
  have hround : roundShift (s.product t ra rb) k = v := roundShift_eq hlow hhigh
  rw [exec_msr_inRange hk, hround]
  exact finishValue_writes_or_reports t l 0x32 rd v s

/-- Settles O49: the product by one is the operand, and no shift right of it leaves the range; a scale of 0 leaves the
product. -/
theorem multiplyByOneIsShift : Obligations.MultiplyByOneIsShift := by
  intro t l rd ra rb rc s
  refine ⟨fun hone hk => ⟨?_, ?_⟩, ?_⟩
  · rw [exec_msr_inRange (by omega), exec_shrr_inRange hk, product_of_multiplier_one hone]
    exact finishValue_plain (.inr (representable_roundShift t _ _)) 0x32 rd s
  · rw [exec_ms_inRange (by omega), exec_shr_inRange hk, product_of_multiplier_one hone]
    exact finishValue_plain (.inr (representable_div t _ _)) 0x31 rd s
  · intro hzero hrep b
    have hk : (s.reg rc).toNat = 0 := congrArg BitVec.toNat hzero
    have hlow : image t (s.product t ra rb) = (low t (s.reg ra) * b).setWidth 64 := image_product s t ra rb
    rw [exec_ms_inRange (by omega), hk, pow_zero, Int.ediv_one, ← hlow]
    exact finishValue_plain (.inr hrep) 0x31 rd s

/-- Settles O50: all three test the scale before anything else. -/
theorem scaleRangeIsFatal : Obligations.ScaleRangeIsFatal := by
  intro t l c rd ra rb rc s
  rw [exec_ms, exec_msr, exec_divsr]
  refine ⟨fun h => ?_, fun h => divsrTyped_scaleOutOfRange h t c rd ra rb⟩
  exact ⟨withAmount_outOfRange (by push_cast; exact h) .., withAmount_outOfRange (by push_cast; exact h) ..⟩

end Sys2Proof.Proofs
end

section
/-! PROOFS of the statements on the fixed-width dividers: the division identity of DIVM, the rounding of DIVR and DIVSR,
and the zero divisor (44_divide.md). -/

namespace Sys2Proof.Machine

open Sys2Proof.Safety

/-! ### Signs, limits and ranges (R183, R184) -/

/-- `LIM`, as claims name it. -/
theorem quotientLimit_eq_limit (t : Ty) : t.quotientLimit = limit t := by
  cases t <;> rfl

/-- Opposite signs are a negative product. -/
theorem oppositeSigns_eq (n d : Int) : oppositeSigns n d = decide (n * d < 0) := by
  rw [oppositeSigns, ← Int.sign_mul, decide_eq_decide]
  exact Int.sign_neg_iff

theorem signedQuotient_eq (n d : Int) (qm : Nat) :
    signedQuotient n d qm = if n * d < 0 then -(qm : Int) else (qm : Int) := by
  simp only [signedQuotient, oppositeSigns_eq, decide_eq_true_eq]

/-- The range of the scaled dividend is that of the 64-bit type of its signedness. -/
theorem fitsDividend_iff (signed : Bool) (n : Int) :
    fitsDividend signed n = true ↔ representable (if signed then .s64 else .u64) n := by
  cases signed <;> simp [fitsDividend, representable]

/-! ### The truncating division (R181, R185) -/

/-- The remainder as R181 writes it is that of the truncating division. -/
theorem sub_tdiv_mul (n d : Int) : n - n.tdiv d * d = n.tmod d := by
  rw [Int.tmod_def, mul_comm]

theorem natAbs_tmod_lt (n : Int) {d : Int} (hd : d ≠ 0) : (n.tmod d).natAbs < d.natAbs := by
  rw [Int.natAbs_tmod]
  exact Nat.mod_lt _ (Int.natAbs_pos.2 hd)

/-- The remainder is 0, or has the sign of the dividend. -/
theorem tmod_eq_zero_or_sign_eq (n d : Int) : n.tmod d = 0 ∨ (n.tmod d).sign = n.sign := by
  by_cases h : d ∣ n
  · exact .inl (Int.tmod_eq_zero_of_dvd h)
  · exact .inr (by rw [Int.sign_tmod, if_neg h])

/-- The source's test on the dividend is a test on the quotient's magnitude (R184). -/
theorem mul_natAbs_le_iff (lim : Nat) (n : Int) {d : Int} (hd : d ≠ 0) :
    lim * d.natAbs ≤ n.natAbs ↔ lim ≤ (n.tdiv d).natAbs := by
  rw [Int.natAbs_tdiv]
  exact (Nat.le_div_iff_mul_le (Int.natAbs_pos.2 hd)).symm

/-! ### The rounded magnitude (R182, R186) -/

/-- Half a divisor added before the division carries into the quotient when the remainder is at least the other half. -/
theorem add_half_div (a : Nat) {b : Nat} (hb : 0 < b) :
    (a + b / 2) / b = if b ≤ 2 * (a % b) then a / b + 1 else a / b := by
  have hhalf : b / 2 < b := Nat.div_lt_self hb one_lt_two
  have hcarry : b ≤ a % b + b / 2 ↔ b ≤ 2 * (a % b) := by omega
  rw [Nat.add_div hb, Nat.div_eq_of_lt hhalf, Nat.mod_eq_of_lt hhalf, add_zero]
  simp only [hcarry]
  split <;> rfl

/-- DIVR in terms of DIVM (R186). -/
theorem roundedMagnitude_eq_of_tdiv (n : Int) {d : Int} (hd : d ≠ 0) :
    roundedMagnitude n d
      = if d.natAbs ≤ 2 * (n.tmod d).natAbs then (n.tdiv d).natAbs + 1 else (n.tdiv d).natAbs := by
  rw [Int.natAbs_tmod, Int.natAbs_tdiv]
  exact add_half_div n.natAbs (Int.natAbs_pos.2 hd)

/-- Rounding to nearest, ties away from zero, in one quotient. -/
theorem roundedMagnitude_eq_div (n d : Int) :
    roundedMagnitude n d = (2 * n.natAbs + d.natAbs) / (2 * d.natAbs) := by
  have hhalf : (2 * n.natAbs + d.natAbs) / 2 = n.natAbs + d.natAbs / 2 := by omega
  rw [roundedMagnitude, ← Nat.div_div_eq_div_mul, hhalf]

/-! ### The scaled dividend (R183) -/

/-- A scaled dividend is the product by the power of two, or the floor of the quotient by it. -/
theorem scaleDividend_eq {n n2 k : Int} (hleft : 0 ≤ k → n2 = n * 2 ^ k.toNat)
    (hright : k < 0 → n2 * 2 ^ (-k).toNat ≤ n ∧ n < (n2 + 1) * 2 ^ (-k).toNat) : scaleDividend n k = n2 := by
  unfold scaleDividend
  split
  case isTrue hk => exact (hleft hk).symm
  case isFalse hk =>
    obtain ⟨hlow, hhigh⟩ := hright (Int.not_le.1 hk)
    exact ediv_two_pow_eq hlow hhigh

/-! ### The three meanings, by the divisor (R181 to R183, R187) -/

/-- Finish at a checked level, by what its overflow test means (R109 in 40_policy.md). -/
theorem finishChecked_writes_or_reports {ovf : Bool} {P : Prop} (h : ovf = true ↔ P) (c : Checked) (opc : Opc)
    (plain satv : List RegWrite) (s : State) :
    (¬P → finishChecked c ovf opc plain satv s = .next (s.complete plain))
    ∧ (P → finishChecked c ovf opc plain satv s
        = reportThenComplete (s.checkedCode c) (checkedOverride c) opc satv s) := by
  rw [← h]
  cases ovf <;> simp

/-- A source whose pattern is 0 is 0, signed or not. -/
theorem source_eq_zero {s : State} {t : Ty} {r : Reg} (h : low t (s.reg r) = 0) : s.source t r = 0 := by
  have hvalue : s.source t r = valueOf t.signed (low t (s.reg r)) := rfl
  rw [hvalue, h]
  cases t <;> rfl

section ZeroDivisor

variable {t : Ty} {rb : Reg} {s : State} (hd : s.source t rb = 0)

include hd

theorem exec_divm_of_zero (c : Checked) (rd : Reg) (re : Option Reg) (ra : Reg) :
    exec (.divm t c rd re ra rb) s = fatalOrSentinel .divZero (s.checkedCode c) 0x40 (divmDests rd re) s := by
  rw [exec_divm]
  exact if_pos hd

theorem exec_divr_of_zero (c : Checked) (rd ra : Reg) :
    exec (.divr t c rd ra rb) s = .next (completed s rd 0) := by
  rw [exec_divr]
  exact if_pos hd

theorem exec_divsr_of_zero (c : Checked) (rd ra : Reg) {rc : Reg} (hk : -64 < s.amount rc ∧ s.amount rc < 64) :
    exec (.divsr t c rd ra rb rc) s = fatalOrSentinel .divZero (s.checkedCode c) 0x42 [rd] s := by
  rw [exec_divsr]
  exact (if_neg (not_not.2 hk)).trans (if_pos hd)

end ZeroDivisor

section NonzeroDivisor

variable {t : Ty} {ra rb : Reg} {s : State} {n d : Int} (hdividend : s.dividend t ra = n)
  (hdivisor : s.source t rb = d) (hd : d ≠ 0)

include hdividend hdivisor hd

/-- DIVM writes the truncated quotient and the remainder, or reports the quotient. -/
theorem exec_divm_of_ne_zero (c : Checked) (rd : Reg) (re : Option Reg) :
    (¬limit t ≤ (n.tdiv d).natAbs → exec (.divm t c rd re ra rb) s
        = .next (s.complete (divmWrites rd re (image t (n.tdiv d)) (image t (n.tmod d)))))
    ∧ (limit t ≤ (n.tdiv d).natAbs → exec (.divm t c rd re ra rb) s
        = reportThenComplete (s.checkedCode c) (checkedOverride c) 0x40
          (divmWrites rd re (saturation t (decide (n * d < 0))) (image t (n.tmod d))) s) := by
  rw [exec_divm, divmTyped, hdividend, hdivisor]
  simp only [if_neg hd, sub_tdiv_mul, saturated_eq_saturation, oppositeSigns_eq, quotientLimit_eq_limit]
  exact finishChecked_writes_or_reports (decide_eq_true_iff.trans (mul_natAbs_le_iff (limit t) n hd)) c ..

/-- DIVR writes the rounded quotient, or reports it. -/
theorem exec_divr_of_ne_zero (c : Checked) (rd : Reg) {qm : Nat} (hqm : roundedMagnitude n d = qm) :
    (¬limit t ≤ qm → exec (.divr t c rd ra rb) s
        = .next (completed s rd (image t (if n * d < 0 then -(qm : Int) else (qm : Int)))))
    ∧ (limit t ≤ qm → exec (.divr t c rd ra rb) s
        = reportThenComplete (s.checkedCode c) (checkedOverride c) 0x41
          [(rd, saturation t (decide (n * d < 0)))] s) := by
  rw [exec_divr, divrTyped, hdividend, hdivisor]
  simp only [if_neg hd, hqm, saturated_eq_saturation, oppositeSigns_eq, signedQuotient_eq, quotientLimit_eq_limit]
  exact finishChecked_writes_or_reports decide_eq_true_iff c ..

/-- DIVSR with its scale in range writes the rounded quotient of the scaled dividend, or reports once. -/
theorem exec_divsr_of_ne_zero (c : Checked) (rd : Reg) {rc : Reg}
    (hk : -64 < s.amount rc ∧ s.amount rc < 64) {n2 : Int} (hscale : scaleDividend n (s.amount rc) = n2) {qm : Nat}
    (hqm : roundedMagnitude n2 d = qm) :
    (¬(¬representable (if t.signed then .s64 else .u64) n2 ∨ limit t ≤ qm) → exec (.divsr t c rd ra rb rc) s
        = .next (completed s rd (image t (if n2 * d < 0 then -(qm : Int) else (qm : Int)))))
    ∧ (¬representable (if t.signed then .s64 else .u64) n2 ∨ limit t ≤ qm → exec (.divsr t c rd ra rb rc) s
        = reportThenComplete (s.checkedCode c) (checkedOverride c) 0x42
          [(rd, saturation t (decide (n * d < 0)))] s) := by
  have hovf : (!fitsDividend t.signed n2 || decide (limit t ≤ qm)) = true
      ↔ ¬representable (if t.signed then .s64 else .u64) n2 ∨ limit t ≤ qm := by
    rw [← fitsDividend_iff, Bool.or_eq_true, decide_eq_true_iff, Bool.not_eq_true', Bool.not_eq_true]
  rw [exec_divsr, divsrTyped, hdividend, hdivisor]
  simp only [if_neg (not_not.2 hk), if_neg hd, hscale, hqm, saturated_eq_saturation, oppositeSigns_eq,
    signedQuotient_eq, quotientLimit_eq_limit]
  exact finishChecked_writes_or_reports hovf c ..

end NonzeroDivisor

end Sys2Proof.Machine

namespace Sys2Proof.Proofs

open Sys2Proof.Machine Sys2Proof.Safety

/-- Settles O51: the truncating quotient and remainder meet the identity, and the test on the dividend is one on the
quotient. -/
theorem divmIdentity : Obligations.DivmIdentity := by
  intro t c rd re ra rb s n d hd
  have hdivm (re : Option Reg) := exec_divm_of_ne_zero (s := s) (t := t) (ra := ra) (rb := rb) rfl rfl hd c rd re
  obtain ⟨hquotient, hquotientReport⟩ := hdivm none
  obtain ⟨hboth, hbothReport⟩ := hdivm (some re)
  exact ⟨n.tdiv d, n.tmod d, (Int.tdiv_mul_add_tmod n d).symm, natAbs_tmod_lt n hd, tmod_eq_zero_or_sign_eq n d,
    fun hlt => ⟨hquotient (Nat.not_le.2 hlt), hboth (Nat.not_le.2 hlt)⟩,
    fun hle => ⟨hquotientReport hle, hbothReport hle⟩⟩

/-- Settles O52: half the divisor, added before the division, rounds the truncating quotient up in magnitude when the
remainder is at least one half. -/
theorem divrRoundsToNearest : Obligations.DivrRoundsToNearest := by
  intro t c rd ra rb s n d hd
  obtain ⟨hwrites, hreports⟩ := exec_divr_of_ne_zero (s := s) (t := t) (ra := ra) (rb := rb) rfl rfl hd c rd
    (roundedMagnitude_eq_of_tdiv n hd)
  exact ⟨n.tdiv d, n.tmod d, (Int.tdiv_mul_add_tmod n d).symm, natAbs_tmod_lt n hd, tmod_eq_zero_or_sign_eq n d,
    fun hlt => hwrites (Nat.not_le.2 hlt), hreports⟩

/-- Settles O53: the bounds leave one scaled dividend, which DIVSR divides as DIVR does where it fits. -/
theorem divsrScalesThenRounds : Obligations.DivsrScalesThenRounds := by
  intro t c rd ra rb rc s n2 n d k qm fits hd hlow hhigh hleft hright
  obtain ⟨hwrites, hreports⟩ := exec_divsr_of_ne_zero (s := s) (t := t) (ra := ra) (rb := rb) rfl rfl hd c rd
    ⟨hlow, hhigh⟩ (scaleDividend_eq hleft hright) (roundedMagnitude_eq_div n2 d)
  exact ⟨fun hfits hlt => hwrites (not_or.2 ⟨not_not.2 hfits, Nat.not_le.2 hlt⟩), hreports⟩

/-- Settles O54: DIVM and DIVSR end in the fatal procedure, DIVR does not. -/
theorem divisionByZero : Obligations.DivisionByZero := by
  intro t c rd re ra rb rc s h
  have hd : s.source t rb = 0 := source_eq_zero h
  have hboth := (exec_divm_of_zero hd c rd (some re) ra).trans (fatalOrSentinel_eq rfl ..)
  refine ⟨?_, fun htm => ?_, fun htm => ?_, fun hlow hhigh => ?_, exec_divr_of_zero hd c rd ra⟩
  · exact (exec_divm_of_zero hd c rd none ra).trans (fatalOrSentinel_eq_fatalOutcome rfl ..)
  · exact hboth.trans (congrArg _ (if_neg (ne_true_of_eq_false htm)))
  · exact hboth.trans (congrArg _ (if_pos htm))
  · exact (exec_divsr_of_zero hd c rd ra ⟨hlow, hhigh⟩).trans (fatalOrSentinel_eq_fatalOutcome rfl ..)

end Sys2Proof.Proofs
end

section
/-! PROOFS of the statements on VDIVL: the order of its checks, the vectors it writes, its frame and its scratch region
(45_vdivl.md). -/

namespace Sys2Proof.Machine

open Sys2Proof.Safety

/-! ### Regions and arrangements (R201, R202) -/

theorem not_inside_iff {r : Region} {a : Nat} : ¬inside r a ↔ a < r.base ∨ r.base + r.len ≤ a := by
  unfold inside
  omega

/-- The test by bounds finds a common word: the greater of the two bases. -/
theorem overlaps_iff_shareWord {r q : Region} : r.overlaps q = true ↔ shareWord r q := by
  simp only [Region.overlaps, Bool.and_eq_true, decide_eq_true_eq]
  constructor
  · rintro ⟨⟨⟨hr, hq⟩, hrq⟩, hqr⟩
    exact ⟨max r.base q.base, ⟨by omega, by omega⟩, by omega, by omega⟩
  · rintro ⟨a, ⟨har, har'⟩, haq, haq'⟩
    omega

theorem outputApart_iff_disjointOrSame {out inp : Region} : outputApart out inp = true ↔ disjointOrSame out inp := by
  simp [outputApart, disjointOrSame, ← overlaps_iff_shareWord]

/-- The machine's test of the arrangement, as claims name it. -/
theorem allowed_iff_arrangement {g : VdivlRegions} : g.allowed = true ↔ arrangement g := by
  simp only [VdivlRegions.allowed, arrangement, Bool.and_eq_true, Bool.not_eq_true', ← Bool.not_eq_true,
    Option.all_eq_true, outputApart_iff_disjointOrSame, overlaps_iff_shareWord]
  constructor
  · rintro ⟨⟨⟨⟨⟨⟨hqx, hqy⟩, hr⟩, hwx⟩, hwy⟩, hwq⟩, hwr⟩
    refine ⟨hqx, hqy, fun r hgr => ?_, hwx, hwy, hwq⟩
    obtain ⟨⟨hrx, hry⟩, hqr⟩ := hr r hgr
    exact ⟨hrx, hry, hqr, hwr r hgr⟩
  · rintro ⟨hqx, hqy, hr, hwx, hwy, hwq⟩
    refine ⟨⟨⟨⟨⟨⟨hqx, hqy⟩, fun r hgr => ?_⟩, hwx⟩, hwy⟩, hwq⟩, fun r hgr => ?_⟩
    · obtain ⟨hrx, hry, hqr, -⟩ := hr r hgr
      exact ⟨⟨hrx, hry⟩, hqr⟩
    · obtain ⟨-, -, -, hwr⟩ := hr r hgr
      exact hwr

/-- An allowed arrangement keeps Q and Rm apart (R202 item 3). -/
theorem quotient_apart_of_arrangement {g : VdivlRegions} (hg : arrangement g) {r : Region} (hgr : g.r = some r) :
    ¬shareWord g.q r := by
  obtain ⟨-, -, hr, -⟩ := hg
  obtain ⟨-, -, hqr, -⟩ := hr r hgr
  exact hqr

/-- The machine's test of the regions, as claims name it. -/
theorem vdivlValid_iff_regionsInside {s : State} {g : VdivlRegions} : s.vdivlValid g = true ↔ regionsInside s g := by
  simp [State.vdivlValid, State.validRegion, regionsInside, Option.all_eq_true, and_assoc]

/-! ### Digit vectors by address (R53) -/

/-- The digit of `v` that belongs at address `a` of a vector. -/
def vecDigit (msd : Bool) (r : Region) (v a : Nat) : Word :=
  BitVec.ofNat 32 (v / 2 ^ (32 * digitPos msd r.len (a - r.base)))

/-- The digits of 0 are 0. -/
@[simp] theorem vecDigit_zero (msd : Bool) (r : Region) (a : Nat) : vecDigit msd r 0 a = 0 := by
  simp [vecDigit]

/-- The place of a digit, counted from the other end, is its weight. -/
theorem digitPos_digitPos (msd : Bool) {n i : Nat} (h : i < n) : digitPos msd n (digitPos msd n i) = i := by
  unfold digitPos
  split <;> omega

/-- Writing a vector puts its digit at every address inside. -/
theorem memWord_vecPut_of_inside (msd : Bool) (m : Memory) {r : Region} (v : Nat) {a : Nat} (h : inside r a) :
    memWord (vecPut msd m r v) a = vecDigit msd r v a := by
  obtain ⟨hbase, hend⟩ := h
  have hlt : a - r.base < r.len := by omega
  have hplace : r.base + digitPos msd r.len (digitPos msd r.len (a - r.base)) = a := by
    rw [digitPos_digitPos msd hlt]
    omega
  have hword := memWord_vecPut_digitPos msd m r v (digitPos_lt (msd := msd) hlt)
  rwa [hplace] at hword

/-- The value of a vector depends on the words inside it only. -/
theorem vecValue_congr (msd : Bool) {m n : Memory} {r : Region} (h : ∀ a, inside r a → memWord m a = memWord n a) :
    vecValue msd m r = vecValue msd n r := by
  refine congrArg digitsValue (List.map_congr_left fun i hi => h _ ⟨Nat.le_add_right .., ?_⟩)
  exact Nat.add_lt_add_left (digitPos_lt (List.mem_range.1 hi)) _

theorem digitsValue_lt (ds : List Word) : digitsValue ds < 2 ^ (32 * ds.length) := by
  induction ds with
  | nil => exact Nat.one_pos
  | cons d ds ih =>
    have hd : d.toNat < 2 ^ 32 := d.isLt
    rw [List.length_cons, Nat.mul_add_one, Nat.pow_add]
    show d.toNat + 2 ^ 32 * digitsValue ds < _
    omega

/-- A vector holds a number below the radix to its length. -/
theorem vecValue_lt (msd : Bool) (m : Memory) (r : Region) : vecValue msd m r < 2 ^ (32 * r.len) := by
  simpa [vecValue, vecDigits] using digitsValue_lt (vecDigits msd m r)

/-- A vector of the digits of a number that fits has that value. -/
theorem vecValue_eq_of_digits {msd : Bool} {m : Memory} {r : Region} {v : Nat} (hv : v < 2 ^ (32 * r.len))
    (h : ∀ a, inside r a → memWord m a = vecDigit msd r v a) : vecValue msd m r = v :=
  calc vecValue msd m r
      = vecValue msd (vecPut msd m r v) r :=
        vecValue_congr msd fun a ha => (h a ha).trans (memWord_vecPut_of_inside msd m v ha).symm
    _ = v % 2 ^ (32 * r.len) := vecValue_vecPut msd m r v
    _ = v := Nat.mod_eq_of_lt hv

/-! ### Quotient and remainder by value (R203 to R205) -/

/-- A zero operand makes both 0 (R204). -/
theorem vdivlResult_of_zero (rnd : Bool) {xv yv : Nat} (h : xv = 0 ∨ yv = 0) : vdivlResult rnd xv yv = (0, 0) :=
  if_pos h

/-- Operands other than 0 give the rounded quotient and the unrounded remainder (R205). -/
theorem vdivlResult_of_ne_zero (rnd : Bool) {xv yv : Nat} (hx : xv ≠ 0) (hy : yv ≠ 0) :
    vdivlResult rnd xv yv
      = (if rnd = true ∧ yv ≤ 2 * (xv % yv) then xv / yv + 1 else xv / yv, xv % yv) :=
  if_neg (not_or.2 ⟨hx, hy⟩)

/-- The quotient is not above the dividend, rounded up or not: rounding up needs a remainder, so a divisor of at least 2
(R205). -/
theorem roundedQuotient_le (rnd : Bool) (xv : Nat) {yv : Nat} (hy : yv ≠ 0) :
    (if rnd = true ∧ yv ≤ 2 * (xv % yv) then xv / yv + 1 else xv / yv) ≤ xv := by
  split
  case isTrue h =>
    have hlt : xv % yv < yv := Nat.mod_lt _ (Nat.pos_of_ne_zero hy)
    have htwo : 2 * (xv / yv) ≤ yv * (xv / yv) := Nat.mul_le_mul_right _ (by omega)
    have hdiv : yv * (xv / yv) + xv % yv = xv := Nat.div_add_mod xv yv
    omega
  case isFalse => exact Nat.div_le_self ..

/-- The quotient and the remainder of a VDIVL on the vectors of a state. -/
def State.vdivlNumbers (s : State) (rnd : Bool) (g : VdivlRegions) : Nat × Nat :=
  vdivlResult rnd (vecValue s.params.vecMsdFirst s.mem g.x) (vecValue s.params.vecMsdFirst s.mem g.y)

/-! ### The words that VDIVL writes (R203, R206) -/

section Words

variable (s : State) (rnd : Bool) {g : VdivlRegions} {a : Nat}

/-- Every word of Q is a digit of the quotient, which the later write of Rm leaves alone. -/
theorem readWord_vdivlWrite_quotient (hg : arrangement g) (ha : inside g.q a) :
    (s.vdivlWrite rnd g).readWord a = vecDigit s.params.vecMsdFirst g.q (s.vdivlNumbers rnd g).1 a := by
  unfold State.vdivlWrite
  dsimp only
  split
  · exact memWord_vecPut_of_inside _ _ _ ha
  · rename_i r hgr
    have hout : ¬inside r a := fun har => quotient_apart_of_arrangement hg hgr ⟨a, ha, har⟩
    exact (memWord_vecPut_of_ne _ _ _ _ _ (not_inside_iff.1 hout)).trans (memWord_vecPut_of_inside _ _ _ ha)

/-- Every word of Rm is a digit of the remainder. -/
theorem readWord_vdivlWrite_remainder {r : Region} (hgr : g.r = some r) (ha : inside r a) :
    (s.vdivlWrite rnd g).readWord a = vecDigit s.params.vecMsdFirst r (s.vdivlNumbers rnd g).2 a := by
  simp only [State.vdivlWrite, hgr]
  exact memWord_vecPut_of_inside _ _ _ ha

/-- Every word outside Q, W and Rm is left alone. -/
theorem readWord_vdivlWrite_outside (hq : ¬inside g.q a) (hw : ¬inside g.w a) (hr : ∀ r, g.r = some r → ¬inside r a) :
    (s.vdivlWrite rnd g).readWord a = s.readWord a := by
  have hbase (v : Nat) : memWord (vecPut s.params.vecMsdFirst (s.scribble g.w).mem g.q v) a = memWord s.mem a :=
    (memWord_vecPut_of_ne _ _ _ _ _ (not_inside_iff.1 hq)).trans (memWord_scribble_of_ne _ _ _ (not_inside_iff.1 hw))
  unfold State.vdivlWrite
  dsimp only
  split
  · exact hbase _
  · rename_i r hgr
    exact (memWord_vecPut_of_ne _ _ _ _ _ (not_inside_iff.1 (hr r hgr))).trans (hbase _)

end Words

/-- States that agree outside the scratch region hold the same operands, which the scratch region does not touch (R202). -/
theorem vdivlNumbers_congr {s u : State} (rnd : Bool) {g : VdivlRegions} (hg : arrangement g)
    (h : ∀ a, ¬inside g.w a → u.readWord a = s.readWord a) (hparams : u.params = s.params) :
    u.vdivlNumbers rnd g = s.vdivlNumbers rnd g := by
  obtain ⟨-, -, -, hwx, hwy, -⟩ := hg
  have hvalue (r : Region) (hr : ¬shareWord g.w r) :
      vecValue s.params.vecMsdFirst u.mem r = vecValue s.params.vecMsdFirst s.mem r :=
    vecValue_congr _ fun a ha => h a fun haw => hr ⟨a, haw, ha⟩
  rw [State.vdivlNumbers, hparams, hvalue g.x hwx, hvalue g.y hwy]
  rfl

/-- The words outside the scratch region after a VDIVL depend on the words outside it only (R206). -/
theorem readWord_vdivlWrite_congr {s u : State} (rnd : Bool) {g : VdivlRegions} (hg : arrangement g)
    (h : ∀ a, ¬inside g.w a → u.readWord a = s.readWord a) (hparams : u.params = s.params) {a : Nat}
    (ha : ¬inside g.w a) : (u.vdivlWrite rnd g).readWord a = (s.vdivlWrite rnd g).readWord a := by
  have hnumbers := vdivlNumbers_congr rnd hg h hparams
  by_cases hq : inside g.q a
  · rw [readWord_vdivlWrite_quotient u rnd hg hq, readWord_vdivlWrite_quotient s rnd hg hq, hnumbers, hparams]
  · by_cases hm : ∃ r, g.r = some r ∧ inside r a
    · obtain ⟨r, hgr, har⟩ := hm
      rw [readWord_vdivlWrite_remainder u rnd hgr har, readWord_vdivlWrite_remainder s rnd hgr har, hnumbers, hparams]
    · have hout (r : Region) (hgr : g.r = some r) : ¬inside r a := fun har => hm ⟨r, hgr, har⟩
      rw [readWord_vdivlWrite_outside u rnd hq ha hout, readWord_vdivlWrite_outside s rnd hq ha hout, h a ha]

/-! ### The three outcomes of VDIVL (R201, R202; R236 in 60_exceptions.md) -/

section Outcomes

variable {rnd : Bool} {rq rx ry : Reg} {rr : Option Reg} {rw rnx rny : Reg} {s : State}

theorem exec_vdivl_of_not_inside (h : ¬regionsInside s (s.vdivlRegions rq rx ry rr rw rnx rny)) :
    exec (.vdivl rnd rq rx ry rr rw rnx rny) s = .next (haltedBy s .memFault 0 0x50#8) := by
  have hv := mt vdivlValid_iff_regionsInside.1 h
  show execVdivl rnd rq rx ry rr rw rnx rny s = _
  simp [execVdivl, hv, halt_eq_haltedBy]

theorem exec_vdivl_of_not_arrangement (h : regionsInside s (s.vdivlRegions rq rx ry rr rw rnx rny))
    (hg : ¬arrangement (s.vdivlRegions rq rx ry rr rw rnx rny)) :
    exec (.vdivl rnd rq rx ry rr rw rnx rny) s = .refused .vdivlOverlap := by
  have hv := vdivlValid_iff_regionsInside.2 h
  have ha := mt allowed_iff_arrangement.1 hg
  show execVdivl rnd rq rx ry rr rw rnx rny s = _
  simp [execVdivl, hv, ha]

theorem exec_vdivl_of_arrangement (h : regionsInside s (s.vdivlRegions rq rx ry rr rw rnx rny))
    (hg : arrangement (s.vdivlRegions rq rx ry rr rw rnx rny)) :
    exec (.vdivl rnd rq rx ry rr rw rnx rny) s
      = .next (s.vdivlWrite rnd (s.vdivlRegions rq rx ry rr rw rnx rny)).stepCC := by
  have hv := vdivlValid_iff_regionsInside.2 h
  have ha := allowed_iff_arrangement.2 hg
  show execVdivl rnd rq rx ry rr rw rnx rny s = _
  simp [execVdivl, hv, ha]

/-- Every next state of VDIVL, in the terms of the claims. -/
theorem exec_vdivl_next {s' : State} (h : exec (.vdivl rnd rq rx ry rr rw rnx rny) s = .next s') :
    (regionsInside s (s.vdivlRegions rq rx ry rr rw rnx rny) ∧ arrangement (s.vdivlRegions rq rx ry rr rw rnx rny)
        ∧ s' = (s.vdivlWrite rnd (s.vdivlRegions rq rx ry rr rw rnx rny)).stepCC)
    ∨ (¬regionsInside s (s.vdivlRegions rq rx ry rr rw rnx rny) ∧ s' = haltedBy s .memFault 0 0x50#8) := by
  simpa only [vdivlValid_iff_regionsInside, allowed_iff_arrangement, ← Bool.not_eq_true, halt_eq_haltedBy]
    using execVdivl_next h

end Outcomes

/-! ### What a VDIVL leaves unchanged (R206, R207) -/

@[simp] theorem vdivlWrite_regs (s : State) (rnd : Bool) (g : VdivlRegions) : (s.vdivlWrite rnd g).regs = s.regs := by
  rw [vdivlWrite_eq]

@[simp] theorem vdivlWrite_cc (s : State) (rnd : Bool) (g : VdivlRegions) : (s.vdivlWrite rnd g).cc = s.cc := by
  rw [vdivlWrite_eq]

@[simp] theorem vdivlWrite_runState (s : State) (rnd : Bool) (g : VdivlRegions) :
    (s.vdivlWrite rnd g).runState = s.runState := by
  rw [vdivlWrite_eq]

@[simp] theorem vdivlWrite_ev (s : State) (rnd : Bool) (g : VdivlRegions) : (s.vdivlWrite rnd g).ev = s.ev := by
  rw [vdivlWrite_eq]

/-- A completed VDIVL has changed M, the counter of free values and CC only. -/
theorem vdivlWrite_stepCC_eq (rnd : Bool) (g : VdivlRegions) (s : State) :
    (s.vdivlWrite rnd g).stepCC = { s with
      mem := (s.vdivlWrite rnd g).stepCC.mem, draws := (s.vdivlWrite rnd g).stepCC.draws, cc := s.cc + 1 } := by
  rw [vdivlWrite_eq]
  rfl

end Sys2Proof.Machine

namespace Sys2Proof.Proofs

open Sys2Proof.Machine Sys2Proof.Safety

/-- Settles O55: the regions by definition, and neither outcome writes a register. -/
theorem vdivlOperands : Obligations.VdivlOperands := by
  refine fun rnd rq rx ry rr rw rnx rny s => ⟨rfl, fun s' h => ?_⟩
  rcases exec_vdivl_next h with ⟨-, -, rfl⟩ | ⟨-, rfl⟩
  · simp
  · rfl

/-- Settles O56: the three outcomes, by the two tests in their order. -/
theorem vdivlChecksRegionsFirst : Obligations.VdivlChecksRegionsFirst :=
  fun _ _ _ _ _ _ _ _ _ => ⟨exec_vdivl_of_not_inside, exec_vdivl_of_not_arrangement, fun h hg =>
    ⟨_, exec_vdivl_of_arrangement h hg, by simp, by simp⟩⟩

/-- Settles O57: both results fit their vectors, and the words of Q and Rm are their digits. -/
theorem vdivlDividesTheVectors : Obligations.VdivlDividesTheVectors := by
  intro rnd rq rx ry rr rw rnx rny s g msd xv yv hin hg hx hy
  have hnumbers : s.vdivlNumbers rnd g = _ := vdivlResult_of_ne_zero rnd hx hy
  have hlt : xv % yv < yv := Nat.mod_lt _ (Nat.pos_of_ne_zero hy)
  refine ⟨_, xv / yv, xv % yv, exec_vdivl_of_arrangement hin hg, (Nat.div_add_mod' xv yv).symm, hlt,
    vecValue_eq_of_digits ?_ fun a ha => ?_, fun m hm => vecValue_eq_of_digits ?_ fun a ha => ?_⟩
  · exact (roundedQuotient_le rnd xv hy).trans_lt (vecValue_lt msd s.mem g.x)
  · have hword := readWord_vdivlWrite_quotient s rnd hg ha
    rwa [hnumbers] at hword
  · have hlen : m.len = g.y.len := by
      obtain ⟨r, -, rfl⟩ := Option.map_eq_some_iff.1 hm
      rfl
    rw [hlen]
    exact hlt.trans (vecValue_lt msd s.mem g.y)
  · have hword := readWord_vdivlWrite_remainder s rnd hm ha
    rwa [hnumbers] at hword

/-- Settles O58: quotient and remainder are 0, and so is every digit of them. -/
theorem vdivlZeroOperand : Obligations.VdivlZeroOperand := by
  intro rnd rq rx ry rr rw rnx rny s g msd hin hg hzero
  have hnumbers : s.vdivlNumbers rnd g = (0, 0) := vdivlResult_of_zero rnd hzero
  refine ⟨_, exec_vdivl_of_arrangement hin hg, by simp, by simp, by simp, fun a ha => ?_, fun m hm a ha => ?_⟩
  · have hword := readWord_vdivlWrite_quotient s rnd hg ha
    rwa [hnumbers, vecDigit_zero] at hword
  · have hword := readWord_vdivlWrite_remainder s rnd hm ha
    rwa [hnumbers, vecDigit_zero] at hword

/-- Settles O59: the frame of each outcome, and neither test nor write looks at TM. -/
theorem vdivlFrame : Obligations.VdivlFrame := by
  intro rnd rq rx ry rr rw rnx rny s s' g h
  rcases exec_vdivl_next h with ⟨hin, hg, rfl⟩ | ⟨hin, rfl⟩
  · refine ⟨.inr ⟨vdivlWrite_stepCC_eq .., fun a => readWord_vdivlWrite_outside s rnd⟩, fun b => ?_⟩
    have hrun := exec_vdivl_of_arrangement (rnd := rnd) (s := s.inMode b) hin hg
    exact hrun.trans (congrArg (fun t => Host.Outcome.next (State.stepCC t)) (vdivlWrite_inMode s b rnd g))
  · exact ⟨.inl rfl, fun b => exec_vdivl_of_not_inside (s := s.inMode b) hin⟩

/-- Settles O60: both runs complete, and what each leaves outside the scratch region comes from outside it. -/
theorem vdivlIgnoresScratch : Obligations.VdivlIgnoresScratch := by
  intro rnd rq rx ry rr rw rnx rny s u s' g hu hwords h hin
  rcases exec_vdivl_next h with ⟨-, hg, rfl⟩ | ⟨hout, -⟩
  · obtain ⟨mem, draws, rfl⟩ : ∃ mem draws, u = { s with mem := mem, draws := draws } := ⟨_, _, hu⟩
    have hafter (a : Nat) := readWord_vdivlWrite_congr (a := a) rnd hg hwords rfl
    exact ⟨_, exec_vdivl_of_arrangement hin hg, hafter⟩
  · exact absurd hin hout

end Sys2Proof.Proofs
end

section
/-! PROOFS of the statements on the unit at rest: HALTED, where only Reset has an effect, and idleness, with no transaction
asked for (60_exceptions.md). -/

namespace Sys2Proof.Machine

/-- Issue of any word, legal or not, is ignored in HALTED (R235). -/
theorem transact_issue_of_halted {s : State} {w : InstrWord} (hh : s.runState = .halted) :
    transact (.issue w) s = .next s := by
  simp [transact, issue, hh]

/-- A transaction that answers a next state in HALTED, Reset apart, is an ignored Issue or a read: it changes at most the
answers to the host (R235; log 2). -/
theorem Transacted.eq_of_halted {s s' : State} {t : HostTxn} (h : Transacted s t s') (hh : s.runState = .halted)
    (ht : t ≠ .reset) : s' = { s with replies := s'.replies } := by
  have not_run (hr : s.runState = .run) : False := nomatch hh.symm.trans hr
  have not_waiting (hw : s.runState = .cbwait) : False := nomatch hh.symm.trans hw
  cases h with
  | reset => exact absurd rfl ht
  | writeReg i v run => exact (not_run run).elim
  | readReg => rfl
  | writeMem a v run => exact (not_run run).elim
  | readMem => rfl
  | executed w i _ run => exact (not_run run).elim
  | illegal w e run => exact (not_run run).elim
  | ignored => rfl
  | readStatus => rfl
  | readEvents => rfl
  | resumed p waiting => exact (not_waiting waiting).elim
  | aborted p waiting => exact (not_waiting waiting).elim

end Sys2Proof.Machine

namespace Sys2Proof.Proofs

open Sys2Proof.Machine

/-- Settles O33: with no transaction waiting, a step has nothing to perform. -/
theorem idleUnitWaits : Obligations.IdleUnitWaits := fun _ => step_nil

/-- Settles O7: Issue is ignored, the reads are those of O31, and besides Reset nothing else answers a next state. -/
theorem haltedUnitIsInert : Obligations.HaltedUnitIsInert := by
  intro s rest hh
  obtain ⟨-, -, readReg, readMem, readStatus, readEvents⟩ := hostReadsAndWrites s rest
  refine ⟨fun w hi => ?issue, fun r hi => ⟨_, readReg r hi⟩, fun a ha hi => ⟨_, readMem a ha hi⟩, ?statusAndEvents,
    fun t s' hi ht h => ?frame, fun hi => ⟨_, step_cons hi, rfl⟩⟩
  case issue => exact (step_cons hi).trans (transact_issue_of_halted hh)
  case statusAndEvents =>
    rintro (hi | hi)
    · exact ⟨_, readStatus hi⟩
    · exact ⟨_, readEvents hi⟩
  case frame => exact (step_transacted h hi).eq_of_halted hh ht

end Sys2Proof.Proofs
end
